-- ==== Sys2Proof/Word.lean ====
section
/-! DEFINITION. The two word types of the hardware: the byte (`u8`) and the 16-bit word (`u16`)
(spec/00_scope.md R7, R8). -/

namespace Sys2Proof

/-- A `u8`: every register but `pc`, and every memory byte (R7 `XLEN`, "byte size"). -/
abbrev Byte := BitVec 8

/-- A `u16`: `pc`, addresses and little-endian words (R7 `PCLEN`, `ALEN`). -/
abbrev Word := BitVec 16

end Sys2Proof
end

