-- ==== Sys2Proof/Syntax.lean ====
section
/-! DEFINITION. The instructions as syntax: registers, flags, addressing modes, operand forms,
mnemonics, descriptors, and `Instr`, one constructor per row of spec/opcode_table.json
(spec/30_encoding.md R80 to R86, spec/40_addressing.md R110 to R122). -/

namespace Sys2Proof

/-- The four registers of the register file's port (00_scope.md R9; 10_state.md R21 to R24). -/
inductive Reg where
  | a | x | y | s
  deriving DecidableEq, Repr

/-- The port index of R9: A = 0, X = 1, Y = 2, S = 3. -/
def Reg.index : Reg → Nat
  | .a => 0
  | .x => 1
  | .y => 2
  | .s => 3

/-- The eight bits of P under their names (10_state.md R28): Carry, Zero, InterruptDisable,
DecimalMode, Break, Break2, Overflow, Negative. -/
inductive Flag where
  | c | z | i | d | b | b2 | v | n
  deriving DecidableEq, Repr

/-- The metadata `mode` of a descriptor: nine resolvable variants and the "not applicable" one
(30_encoding.md R81; 40_addressing.md R110). -/
inductive Mode where
  | immediate | zeroPage | zeroPageX | zeroPageY | absolute | absoluteX | absoluteY
  | indirectX | indirectY | noneAddressing
  deriving DecidableEq, Repr

/-- The operand form: the name of the mode where it is resolvable, else one of the five ways an
instruction without an addressing mode uses its bytes (40_addressing.md R122). -/
inductive Form where
  | immediate | zeroPage | zeroPageX | zeroPageY | absolute | absoluteX | absoluteY
  | indirectX | indirectY
  | implied | accumulator | relative | absoluteJump | indirectJump
  deriving DecidableEq, Repr

/-- The metadata mode of a form: the form's own, or NoneAddressing (R122, R86). -/
def Form.mode : Form → Mode
  | .immediate => .immediate
  | .zeroPage => .zeroPage
  | .zeroPageX => .zeroPageX
  | .zeroPageY => .zeroPageY
  | .absolute => .absolute
  | .absoluteX => .absoluteX
  | .absoluteY => .absoluteY
  | .indirectX => .indirectX
  | .indirectY => .indirectY
  | .implied => .noneAddressing
  | .accumulator => .noneAddressing
  | .relative => .noneAddressing
  | .absoluteJump => .noneAddressing
  | .indirectJump => .noneAddressing

/-- The length in bytes of an instruction of this form, opcode included (30_encoding.md R82). -/
def Form.length : Form → Nat
  | .immediate => 2
  | .zeroPage => 2
  | .zeroPageX => 2
  | .zeroPageY => 2
  | .absolute => 3
  | .absoluteX => 3
  | .absoluteY => 3
  | .indirectX => 2
  | .indirectY => 2
  | .implied => 1
  | .accumulator => 1
  | .relative => 2
  | .absoluteJump => 3
  | .indirectJump => 3

/-- An operand: a form with the operand bytes it carries. -/
inductive Operand where
  /-- The data itself (R111). -/
  | immediate (b : Byte)
  /-- An address in page zero (R112). -/
  | zeroPage (z : Byte)
  /-- Indexed by X inside page zero (R113). -/
  | zeroPageX (z : Byte)
  /-- Indexed by Y inside page zero (R114). -/
  | zeroPageY (z : Byte)
  /-- A 16-bit address (R115). -/
  | absolute (w : Word)
  /-- A 16-bit address plus X (R116). -/
  | absoluteX (w : Word)
  /-- A 16-bit address plus Y (R117). -/
  | absoluteY (w : Word)
  /-- The zero-page pointer at `z + X` (R118). -/
  | indirectX (z : Byte)
  /-- The zero-page pointer at `z`, plus Y (R120). -/
  | indirectY (z : Byte)
  /-- No operand bytes; registers, flags or the stack only (R122). -/
  | implied
  /-- No operand bytes; operand and destination are A (R122). -/
  | accumulator
  /-- A signed displacement (R122, R225). -/
  | relative (off : Byte)
  /-- The target of a jump or call (R122). -/
  | absoluteJump (w : Word)
  /-- The address of a pointer to the target (R122, R221). -/
  | indirectJump (w : Word)
  deriving DecidableEq, Repr

/-- The form of an operand. -/
def Operand.form : Operand → Form
  | .immediate _ => .immediate
  | .zeroPage _ => .zeroPage
  | .zeroPageX _ => .zeroPageX
  | .zeroPageY _ => .zeroPageY
  | .absolute _ => .absolute
  | .absoluteX _ => .absoluteX
  | .absoluteY _ => .absoluteY
  | .indirectX _ => .indirectX
  | .indirectY _ => .indirectY
  | .implied => .implied
  | .accumulator => .accumulator
  | .relative _ => .relative
  | .absoluteJump _ => .absoluteJump
  | .indirectJump _ => .indirectJump

/-- The 56 mnemonics (30_encoding.md R102). -/
inductive Mnemonic where
  | adc | and | asl | bcc | bcs | beq | bit | bmi | bne | bpl | brk | bvc | bvs | clc
  | cld | cli | clv | cmp | cpx | cpy | dec | dex | dey | eor | inc | inx | iny | jmp
  | jsr | lda | ldx | ldy | lsr | nop | ora | pha | php | pla | plp | rol | ror | rti
  | rts | sbc | sec | sed | sei | sta | stx | sty | tax | tay | tsx | txa | txs | tya
  deriving DecidableEq, Repr

/-- The note beside a row's cycle count in R86 (`+p`, `+b`). -/
inductive CycleNote where
  | none | pageCross | branch
  deriving DecidableEq, Repr

/-- The InstructionDescriptor (R81): mnemonic ("informational only"), length ("total bytes including
opcode"), cycles ("informational, not enforced as timing": no definition of the model reads it) and,
through the form, the mode. -/
structure Descriptor where
  mnemonic : Mnemonic
  form     : Form
  length   : Nat
  cycles   : Nat
  note     : CycleNote
  deriving DecidableEq, Repr

/-- The descriptor's metadata mode. -/
def Descriptor.mode (d : Descriptor) : Mode := d.form.mode

/-- The instructions: one constructor per row of the opcode table (R86), named after its mnemonic and
form, with the operand its bytes spell (a byte, or the little-endian word of a three-byte one). -/
inductive Instr where
  -- ADC
  | adcImm (b : Byte)
  | adcZp (z : Byte)
  | adcZpX (z : Byte)
  | adcAbs (w : Word)
  | adcAbsX (w : Word)
  | adcAbsY (w : Word)
  | adcIndX (z : Byte)
  | adcIndY (z : Byte)
  -- AND
  | andImm (b : Byte)
  | andZp (z : Byte)
  | andZpX (z : Byte)
  | andAbs (w : Word)
  | andAbsX (w : Word)
  | andAbsY (w : Word)
  | andIndX (z : Byte)
  | andIndY (z : Byte)
  -- ASL
  | aslAcc
  | aslZp (z : Byte)
  | aslZpX (z : Byte)
  | aslAbs (w : Word)
  | aslAbsX (w : Word)
  -- BCC
  | bcc (off : Byte)
  -- BCS
  | bcs (off : Byte)
  -- BEQ
  | beq (off : Byte)
  -- BIT
  | bitZp (z : Byte)
  | bitAbs (w : Word)
  -- BMI
  | bmi (off : Byte)
  -- BNE
  | bne (off : Byte)
  -- BPL
  | bpl (off : Byte)
  -- BRK
  | brk
  -- BVC
  | bvc (off : Byte)
  -- BVS
  | bvs (off : Byte)
  -- CLC
  | clc
  -- CLD
  | cld
  -- CLI
  | cli
  -- CLV
  | clv
  -- CMP
  | cmpImm (b : Byte)
  | cmpZp (z : Byte)
  | cmpZpX (z : Byte)
  | cmpAbs (w : Word)
  | cmpAbsX (w : Word)
  | cmpAbsY (w : Word)
  | cmpIndX (z : Byte)
  | cmpIndY (z : Byte)
  -- CPX
  | cpxImm (b : Byte)
  | cpxZp (z : Byte)
  | cpxAbs (w : Word)
  -- CPY
  | cpyImm (b : Byte)
  | cpyZp (z : Byte)
  | cpyAbs (w : Word)
  -- DEC
  | decZp (z : Byte)
  | decZpX (z : Byte)
  | decAbs (w : Word)
  | decAbsX (w : Word)
  -- DEX
  | dex
  -- DEY
  | dey
  -- EOR
  | eorImm (b : Byte)
  | eorZp (z : Byte)
  | eorZpX (z : Byte)
  | eorAbs (w : Word)
  | eorAbsX (w : Word)
  | eorAbsY (w : Word)
  | eorIndX (z : Byte)
  | eorIndY (z : Byte)
  -- INC
  | incZp (z : Byte)
  | incZpX (z : Byte)
  | incAbs (w : Word)
  | incAbsX (w : Word)
  -- INX
  | inx
  -- INY
  | iny
  -- JMP
  | jmpAbs (w : Word)
  | jmpInd (w : Word)
  -- JSR
  | jsr (w : Word)
  -- LDA
  | ldaImm (b : Byte)
  | ldaZp (z : Byte)
  | ldaZpX (z : Byte)
  | ldaAbs (w : Word)
  | ldaAbsX (w : Word)
  | ldaAbsY (w : Word)
  | ldaIndX (z : Byte)
  | ldaIndY (z : Byte)
  -- LDX
  | ldxImm (b : Byte)
  | ldxZp (z : Byte)
  | ldxZpY (z : Byte)
  | ldxAbs (w : Word)
  | ldxAbsY (w : Word)
  -- LDY
  | ldyImm (b : Byte)
  | ldyZp (z : Byte)
  | ldyZpX (z : Byte)
  | ldyAbs (w : Word)
  | ldyAbsX (w : Word)
  -- LSR
  | lsrAcc
  | lsrZp (z : Byte)
  | lsrZpX (z : Byte)
  | lsrAbs (w : Word)
  | lsrAbsX (w : Word)
  -- NOP
  | nop
  -- ORA
  | oraImm (b : Byte)
  | oraZp (z : Byte)
  | oraZpX (z : Byte)
  | oraAbs (w : Word)
  | oraAbsX (w : Word)
  | oraAbsY (w : Word)
  | oraIndX (z : Byte)
  | oraIndY (z : Byte)
  -- PHA
  | pha
  -- PHP
  | php
  -- PLA
  | pla
  -- PLP
  | plp
  -- ROL
  | rolAcc
  | rolZp (z : Byte)
  | rolZpX (z : Byte)
  | rolAbs (w : Word)
  | rolAbsX (w : Word)
  -- ROR
  | rorAcc
  | rorZp (z : Byte)
  | rorZpX (z : Byte)
  | rorAbs (w : Word)
  | rorAbsX (w : Word)
  -- RTI
  | rti
  -- RTS
  | rts
  -- SBC
  | sbcImm (b : Byte)
  | sbcZp (z : Byte)
  | sbcZpX (z : Byte)
  | sbcAbs (w : Word)
  | sbcAbsX (w : Word)
  | sbcAbsY (w : Word)
  | sbcIndX (z : Byte)
  | sbcIndY (z : Byte)
  -- SEC
  | sec
  -- SED
  | sed
  -- SEI
  | sei
  -- STA
  | staZp (z : Byte)
  | staZpX (z : Byte)
  | staAbs (w : Word)
  | staAbsX (w : Word)
  | staAbsY (w : Word)
  | staIndX (z : Byte)
  | staIndY (z : Byte)
  -- STX
  | stxZp (z : Byte)
  | stxZpY (z : Byte)
  | stxAbs (w : Word)
  -- STY
  | styZp (z : Byte)
  | styZpX (z : Byte)
  | styAbs (w : Word)
  -- TAX
  | tax
  -- TAY
  | tay
  -- TSX
  | tsx
  -- TXA
  | txa
  -- TXS
  | txs
  -- TYA
  | tya
  deriving DecidableEq, Repr

/-- The mnemonic of an instruction (R86, R102). -/
def Instr.mnemonic : Instr → Mnemonic
  | .adcImm _ => .adc
  | .adcZp _ => .adc
  | .adcZpX _ => .adc
  | .adcAbs _ => .adc
  | .adcAbsX _ => .adc
  | .adcAbsY _ => .adc
  | .adcIndX _ => .adc
  | .adcIndY _ => .adc
  | .andImm _ => .and
  | .andZp _ => .and
  | .andZpX _ => .and
  | .andAbs _ => .and
  | .andAbsX _ => .and
  | .andAbsY _ => .and
  | .andIndX _ => .and
  | .andIndY _ => .and
  | .aslAcc => .asl
  | .aslZp _ => .asl
  | .aslZpX _ => .asl
  | .aslAbs _ => .asl
  | .aslAbsX _ => .asl
  | .bcc _ => .bcc
  | .bcs _ => .bcs
  | .beq _ => .beq
  | .bitZp _ => .bit
  | .bitAbs _ => .bit
  | .bmi _ => .bmi
  | .bne _ => .bne
  | .bpl _ => .bpl
  | .brk => .brk
  | .bvc _ => .bvc
  | .bvs _ => .bvs
  | .clc => .clc
  | .cld => .cld
  | .cli => .cli
  | .clv => .clv
  | .cmpImm _ => .cmp
  | .cmpZp _ => .cmp
  | .cmpZpX _ => .cmp
  | .cmpAbs _ => .cmp
  | .cmpAbsX _ => .cmp
  | .cmpAbsY _ => .cmp
  | .cmpIndX _ => .cmp
  | .cmpIndY _ => .cmp
  | .cpxImm _ => .cpx
  | .cpxZp _ => .cpx
  | .cpxAbs _ => .cpx
  | .cpyImm _ => .cpy
  | .cpyZp _ => .cpy
  | .cpyAbs _ => .cpy
  | .decZp _ => .dec
  | .decZpX _ => .dec
  | .decAbs _ => .dec
  | .decAbsX _ => .dec
  | .dex => .dex
  | .dey => .dey
  | .eorImm _ => .eor
  | .eorZp _ => .eor
  | .eorZpX _ => .eor
  | .eorAbs _ => .eor
  | .eorAbsX _ => .eor
  | .eorAbsY _ => .eor
  | .eorIndX _ => .eor
  | .eorIndY _ => .eor
  | .incZp _ => .inc
  | .incZpX _ => .inc
  | .incAbs _ => .inc
  | .incAbsX _ => .inc
  | .inx => .inx
  | .iny => .iny
  | .jmpAbs _ => .jmp
  | .jmpInd _ => .jmp
  | .jsr _ => .jsr
  | .ldaImm _ => .lda
  | .ldaZp _ => .lda
  | .ldaZpX _ => .lda
  | .ldaAbs _ => .lda
  | .ldaAbsX _ => .lda
  | .ldaAbsY _ => .lda
  | .ldaIndX _ => .lda
  | .ldaIndY _ => .lda
  | .ldxImm _ => .ldx
  | .ldxZp _ => .ldx
  | .ldxZpY _ => .ldx
  | .ldxAbs _ => .ldx
  | .ldxAbsY _ => .ldx
  | .ldyImm _ => .ldy
  | .ldyZp _ => .ldy
  | .ldyZpX _ => .ldy
  | .ldyAbs _ => .ldy
  | .ldyAbsX _ => .ldy
  | .lsrAcc => .lsr
  | .lsrZp _ => .lsr
  | .lsrZpX _ => .lsr
  | .lsrAbs _ => .lsr
  | .lsrAbsX _ => .lsr
  | .nop => .nop
  | .oraImm _ => .ora
  | .oraZp _ => .ora
  | .oraZpX _ => .ora
  | .oraAbs _ => .ora
  | .oraAbsX _ => .ora
  | .oraAbsY _ => .ora
  | .oraIndX _ => .ora
  | .oraIndY _ => .ora
  | .pha => .pha
  | .php => .php
  | .pla => .pla
  | .plp => .plp
  | .rolAcc => .rol
  | .rolZp _ => .rol
  | .rolZpX _ => .rol
  | .rolAbs _ => .rol
  | .rolAbsX _ => .rol
  | .rorAcc => .ror
  | .rorZp _ => .ror
  | .rorZpX _ => .ror
  | .rorAbs _ => .ror
  | .rorAbsX _ => .ror
  | .rti => .rti
  | .rts => .rts
  | .sbcImm _ => .sbc
  | .sbcZp _ => .sbc
  | .sbcZpX _ => .sbc
  | .sbcAbs _ => .sbc
  | .sbcAbsX _ => .sbc
  | .sbcAbsY _ => .sbc
  | .sbcIndX _ => .sbc
  | .sbcIndY _ => .sbc
  | .sec => .sec
  | .sed => .sed
  | .sei => .sei
  | .staZp _ => .sta
  | .staZpX _ => .sta
  | .staAbs _ => .sta
  | .staAbsX _ => .sta
  | .staAbsY _ => .sta
  | .staIndX _ => .sta
  | .staIndY _ => .sta
  | .stxZp _ => .stx
  | .stxZpY _ => .stx
  | .stxAbs _ => .stx
  | .styZp _ => .sty
  | .styZpX _ => .sty
  | .styAbs _ => .sty
  | .tax => .tax
  | .tay => .tay
  | .tsx => .tsx
  | .txa => .txa
  | .txs => .txs
  | .tya => .tya

/-- The operand of an instruction, with its form (R85, R86). -/
def Instr.operand : Instr → Operand
  | .adcImm b => .immediate b
  | .adcZp z => .zeroPage z
  | .adcZpX z => .zeroPageX z
  | .adcAbs w => .absolute w
  | .adcAbsX w => .absoluteX w
  | .adcAbsY w => .absoluteY w
  | .adcIndX z => .indirectX z
  | .adcIndY z => .indirectY z
  | .andImm b => .immediate b
  | .andZp z => .zeroPage z
  | .andZpX z => .zeroPageX z
  | .andAbs w => .absolute w
  | .andAbsX w => .absoluteX w
  | .andAbsY w => .absoluteY w
  | .andIndX z => .indirectX z
  | .andIndY z => .indirectY z
  | .aslAcc => .accumulator
  | .aslZp z => .zeroPage z
  | .aslZpX z => .zeroPageX z
  | .aslAbs w => .absolute w
  | .aslAbsX w => .absoluteX w
  | .bcc off => .relative off
  | .bcs off => .relative off
  | .beq off => .relative off
  | .bitZp z => .zeroPage z
  | .bitAbs w => .absolute w
  | .bmi off => .relative off
  | .bne off => .relative off
  | .bpl off => .relative off
  | .brk => .implied
  | .bvc off => .relative off
  | .bvs off => .relative off
  | .clc => .implied
  | .cld => .implied
  | .cli => .implied
  | .clv => .implied
  | .cmpImm b => .immediate b
  | .cmpZp z => .zeroPage z
  | .cmpZpX z => .zeroPageX z
  | .cmpAbs w => .absolute w
  | .cmpAbsX w => .absoluteX w
  | .cmpAbsY w => .absoluteY w
  | .cmpIndX z => .indirectX z
  | .cmpIndY z => .indirectY z
  | .cpxImm b => .immediate b
  | .cpxZp z => .zeroPage z
  | .cpxAbs w => .absolute w
  | .cpyImm b => .immediate b
  | .cpyZp z => .zeroPage z
  | .cpyAbs w => .absolute w
  | .decZp z => .zeroPage z
  | .decZpX z => .zeroPageX z
  | .decAbs w => .absolute w
  | .decAbsX w => .absoluteX w
  | .dex => .implied
  | .dey => .implied
  | .eorImm b => .immediate b
  | .eorZp z => .zeroPage z
  | .eorZpX z => .zeroPageX z
  | .eorAbs w => .absolute w
  | .eorAbsX w => .absoluteX w
  | .eorAbsY w => .absoluteY w
  | .eorIndX z => .indirectX z
  | .eorIndY z => .indirectY z
  | .incZp z => .zeroPage z
  | .incZpX z => .zeroPageX z
  | .incAbs w => .absolute w
  | .incAbsX w => .absoluteX w
  | .inx => .implied
  | .iny => .implied
  | .jmpAbs w => .absoluteJump w
  | .jmpInd w => .indirectJump w
  | .jsr w => .absoluteJump w
  | .ldaImm b => .immediate b
  | .ldaZp z => .zeroPage z
  | .ldaZpX z => .zeroPageX z
  | .ldaAbs w => .absolute w
  | .ldaAbsX w => .absoluteX w
  | .ldaAbsY w => .absoluteY w
  | .ldaIndX z => .indirectX z
  | .ldaIndY z => .indirectY z
  | .ldxImm b => .immediate b
  | .ldxZp z => .zeroPage z
  | .ldxZpY z => .zeroPageY z
  | .ldxAbs w => .absolute w
  | .ldxAbsY w => .absoluteY w
  | .ldyImm b => .immediate b
  | .ldyZp z => .zeroPage z
  | .ldyZpX z => .zeroPageX z
  | .ldyAbs w => .absolute w
  | .ldyAbsX w => .absoluteX w
  | .lsrAcc => .accumulator
  | .lsrZp z => .zeroPage z
  | .lsrZpX z => .zeroPageX z
  | .lsrAbs w => .absolute w
  | .lsrAbsX w => .absoluteX w
  | .nop => .implied
  | .oraImm b => .immediate b
  | .oraZp z => .zeroPage z
  | .oraZpX z => .zeroPageX z
  | .oraAbs w => .absolute w
  | .oraAbsX w => .absoluteX w
  | .oraAbsY w => .absoluteY w
  | .oraIndX z => .indirectX z
  | .oraIndY z => .indirectY z
  | .pha => .implied
  | .php => .implied
  | .pla => .implied
  | .plp => .implied
  | .rolAcc => .accumulator
  | .rolZp z => .zeroPage z
  | .rolZpX z => .zeroPageX z
  | .rolAbs w => .absolute w
  | .rolAbsX w => .absoluteX w
  | .rorAcc => .accumulator
  | .rorZp z => .zeroPage z
  | .rorZpX z => .zeroPageX z
  | .rorAbs w => .absolute w
  | .rorAbsX w => .absoluteX w
  | .rti => .implied
  | .rts => .implied
  | .sbcImm b => .immediate b
  | .sbcZp z => .zeroPage z
  | .sbcZpX z => .zeroPageX z
  | .sbcAbs w => .absolute w
  | .sbcAbsX w => .absoluteX w
  | .sbcAbsY w => .absoluteY w
  | .sbcIndX z => .indirectX z
  | .sbcIndY z => .indirectY z
  | .sec => .implied
  | .sed => .implied
  | .sei => .implied
  | .staZp z => .zeroPage z
  | .staZpX z => .zeroPageX z
  | .staAbs w => .absolute w
  | .staAbsX w => .absoluteX w
  | .staAbsY w => .absoluteY w
  | .staIndX z => .indirectX z
  | .staIndY z => .indirectY z
  | .stxZp z => .zeroPage z
  | .stxZpY z => .zeroPageY z
  | .stxAbs w => .absolute w
  | .styZp z => .zeroPage z
  | .styZpX z => .zeroPageX z
  | .styAbs w => .absolute w
  | .tax => .implied
  | .tay => .implied
  | .tsx => .implied
  | .txa => .implied
  | .txs => .implied
  | .tya => .implied

/-- The form of an instruction. -/
def Instr.form (i : Instr) : Form := i.operand.form

/-- The length of an instruction in bytes (R82). -/
def Instr.length (i : Instr) : Nat := i.form.length

end Sys2Proof
end

