-- ==== Sys2Proof/WellFormed.lean ====
section
/-! DEFINITION. Well-formedness: the constraints that spec/30_encoding.md R82 and R90 and
spec/40_addressing.md R122 put on a descriptor, and of an instruction through its descriptor. Operand
bytes have no illegal value (R89), so an instruction's operand needs no check. -/

namespace Sys2Proof

/-- The stores (R90 b). -/
def Mnemonic.isStore (m : Mnemonic) : Bool :=
  m == .sta || m == .stx || m == .sty

/-- The instructions with a read-modify-write form (R70, R90 b). -/
def Mnemonic.isReadModifyWrite (m : Mnemonic) : Bool :=
  m == .inc || m == .dec || m == .asl || m == .lsr || m == .rol || m == .ror

/-- The eight branches (R225). -/
def Mnemonic.isBranch (m : Mnemonic) : Bool :=
  m == .bcc || m == .bcs || m == .beq || m == .bne || m == .bpl || m == .bmi || m == .bvc || m == .bvs

/-- The four shifts and rotates (R204). -/
def Mnemonic.isShift (m : Mnemonic) : Bool :=
  m == .asl || m == .lsr || m == .rol || m == .ror

/-- The instructions whose handler never calls the resolver in any of its rows: R122's list of the
Implied ones, the branches, and the jumps. -/
def Mnemonic.neverResolves (m : Mnemonic) : Bool :=
  m == .brk || m == .tax || m == .tay || m == .txa || m == .tya || m == .tsx || m == .txs
  || m == .inx || m == .iny || m == .dex || m == .dey
  || m == .pha || m == .pla || m == .php || m == .plp || m == .rts || m == .rti
  || m == .clc || m == .sec || m == .cli || m == .sei || m == .cld || m == .sed || m == .clv || m == .nop
  || m.isBranch || m == .jmp || m == .jsr

/-- Length agrees with the form (R82, R90 d). -/
def Descriptor.lengthOk (d : Descriptor) : Bool := d.length == d.form.length

/-- A resolvable mode exactly for the handlers that call the resolver (R90 a); a shift's accumulator
form does not call it (R204). -/
def Descriptor.resolverOk (d : Descriptor) : Bool :=
  if d.mode == .noneAddressing then d.mnemonic.neverResolves || (d.mnemonic.isShift && d.form == .accumulator)
  else !d.mnemonic.neverResolves

/-- No store and no read-modify-write is Immediate (R90 b). -/
def Descriptor.immediateOk (d : Descriptor) : Bool :=
  !(d.form == .immediate) || !(d.mnemonic.isStore || d.mnemonic.isReadModifyWrite)

/-- ZeroPageY only with LDX and STX (R90 c). -/
def Descriptor.zeroPageYOk (d : Descriptor) : Bool :=
  !(d.form == .zeroPageY) || d.mnemonic == .ldx || d.mnemonic == .stx

/-- AbsoluteY never with LDY, STX, STY or a read-modify-write (R90 c). -/
def Descriptor.absoluteYOk (d : Descriptor) : Bool :=
  !(d.form == .absoluteY)
    || !(d.mnemonic == .ldy || d.mnemonic == .stx || d.mnemonic == .sty || d.mnemonic.isReadModifyWrite)

/-- IndirectX and IndirectY only with ORA, AND, EOR, ADC, STA, LDA, CMP, SBC (R90 c). -/
def Descriptor.indirectOk (d : Descriptor) : Bool :=
  !(d.form == .indirectX || d.form == .indirectY)
    || d.mnemonic == .ora || d.mnemonic == .and || d.mnemonic == .eor || d.mnemonic == .adc
    || d.mnemonic == .sta || d.mnemonic == .lda || d.mnemonic == .cmp || d.mnemonic == .sbc

/-- Among the forms without a mode: Relative is the branches', AbsoluteJump that of JMP and JSR,
IndirectJump that of JMP, and none of the three is another's (R122). -/
def Descriptor.jumpFormOk (d : Descriptor) : Bool :=
  (d.form == .relative) == d.mnemonic.isBranch
    && (!(d.form == .absoluteJump) || d.mnemonic == .jmp || d.mnemonic == .jsr)
    && (!(d.form == .indirectJump) || d.mnemonic == .jmp)
    && (!(d.mnemonic == .jmp || d.mnemonic == .jsr) || d.form == .absoluteJump || d.form == .indirectJump)

/-- A well-formed descriptor. -/
def Descriptor.wf (d : Descriptor) : Bool :=
  d.lengthOk && d.resolverOk && d.immediateOk && d.zeroPageYOk && d.absoluteYOk && d.indirectOk
    && d.jumpFormOk

/-- A well-formed instruction: its mnemonic, form and length make a well-formed descriptor. The cycle
count plays no part. Every term of `Instr` passes, since it has a constructor only for a table row. -/
def Instr.wf (i : Instr) : Bool :=
  Descriptor.wf ⟨i.mnemonic, i.form, i.length, 0, .none⟩

end Sys2Proof
end

