-- ==== Sys2Proof/Decode.lean ====
section
/-! DEFINITION. The opcode table (spec/30_encoding.md R86), the decoder (R84, total on any bytes,
rejecting by name), and after it the encoder (R80, R85), written from the same tables. -/

namespace Sys2Proof

/-! ## Byte order (20_memory.md R56) -/

/-- `hi ++ lo` of R8: the word `hi*256 + lo`. -/
def wordOf (hi lo : Byte) : Word := BitVec.ofNat 16 (hi.toNat * 256 + lo.toNat)

/-- `v[7:0]` of a word. -/
def lowByte (v : Word) : Byte := BitVec.ofNat 8 v.toNat

/-- `v[15:8]` of a word. -/
def highByte (v : Word) : Byte := BitVec.ofNat 8 (v.toNat / 256)

/-! ## The opcode table -/

/-- How the bytes after the opcode make the instruction (R80: formats F1, F2, F3). -/
inductive Build where
  /-- F1: no operand byte. -/
  | plain (i : Instr)
  /-- F2: one operand byte. -/
  | byte (f : Byte → Instr)
  /-- F3: a little-endian word. -/
  | word (f : Word → Instr)

/-- A row of the table: the opcode byte, its descriptor, and the instruction its bytes spell. -/
structure OpRow where
  opcode : Byte
  desc   : Descriptor
  build  : Build

/-- The rows of R86 from ADC to AND. -/
def opRowsAdcToAnd : List OpRow := [
  ⟨0x69, ⟨.adc, .immediate, 2, 2, .none⟩, .byte .adcImm⟩,
  ⟨0x65, ⟨.adc, .zeroPage, 2, 3, .none⟩, .byte .adcZp⟩,
  ⟨0x75, ⟨.adc, .zeroPageX, 2, 4, .none⟩, .byte .adcZpX⟩,
  ⟨0x6D, ⟨.adc, .absolute, 3, 4, .none⟩, .word .adcAbs⟩,
  ⟨0x7D, ⟨.adc, .absoluteX, 3, 4, .pageCross⟩, .word .adcAbsX⟩,
  ⟨0x79, ⟨.adc, .absoluteY, 3, 4, .pageCross⟩, .word .adcAbsY⟩,
  ⟨0x61, ⟨.adc, .indirectX, 2, 6, .none⟩, .byte .adcIndX⟩,
  ⟨0x71, ⟨.adc, .indirectY, 2, 5, .pageCross⟩, .byte .adcIndY⟩,
  ⟨0x29, ⟨.and, .immediate, 2, 2, .none⟩, .byte .andImm⟩,
  ⟨0x25, ⟨.and, .zeroPage, 2, 3, .none⟩, .byte .andZp⟩,
  ⟨0x35, ⟨.and, .zeroPageX, 2, 4, .none⟩, .byte .andZpX⟩,
  ⟨0x2D, ⟨.and, .absolute, 3, 4, .none⟩, .word .andAbs⟩,
  ⟨0x3D, ⟨.and, .absoluteX, 3, 4, .pageCross⟩, .word .andAbsX⟩,
  ⟨0x39, ⟨.and, .absoluteY, 3, 4, .pageCross⟩, .word .andAbsY⟩,
  ⟨0x21, ⟨.and, .indirectX, 2, 6, .none⟩, .byte .andIndX⟩,
  ⟨0x31, ⟨.and, .indirectY, 2, 5, .pageCross⟩, .byte .andIndY⟩]

/-- The rows of R86 from ASL to BVS. -/
def opRowsAslToBvs : List OpRow := [
  ⟨0x0A, ⟨.asl, .accumulator, 1, 2, .none⟩, .plain .aslAcc⟩,
  ⟨0x06, ⟨.asl, .zeroPage, 2, 5, .none⟩, .byte .aslZp⟩,
  ⟨0x16, ⟨.asl, .zeroPageX, 2, 6, .none⟩, .byte .aslZpX⟩,
  ⟨0x0E, ⟨.asl, .absolute, 3, 6, .none⟩, .word .aslAbs⟩,
  ⟨0x1E, ⟨.asl, .absoluteX, 3, 7, .none⟩, .word .aslAbsX⟩,
  ⟨0x90, ⟨.bcc, .relative, 2, 2, .branch⟩, .byte .bcc⟩,
  ⟨0xB0, ⟨.bcs, .relative, 2, 2, .branch⟩, .byte .bcs⟩,
  ⟨0xF0, ⟨.beq, .relative, 2, 2, .branch⟩, .byte .beq⟩,
  ⟨0x24, ⟨.bit, .zeroPage, 2, 3, .none⟩, .byte .bitZp⟩,
  ⟨0x2C, ⟨.bit, .absolute, 3, 4, .none⟩, .word .bitAbs⟩,
  ⟨0x30, ⟨.bmi, .relative, 2, 2, .branch⟩, .byte .bmi⟩,
  ⟨0xD0, ⟨.bne, .relative, 2, 2, .branch⟩, .byte .bne⟩,
  ⟨0x10, ⟨.bpl, .relative, 2, 2, .branch⟩, .byte .bpl⟩,
  ⟨0x00, ⟨.brk, .implied, 1, 7, .none⟩, .plain .brk⟩,
  ⟨0x50, ⟨.bvc, .relative, 2, 2, .branch⟩, .byte .bvc⟩,
  ⟨0x70, ⟨.bvs, .relative, 2, 2, .branch⟩, .byte .bvs⟩]

/-- The rows of R86 from CLC to CPY. -/
def opRowsClcToCpy : List OpRow := [
  ⟨0x18, ⟨.clc, .implied, 1, 2, .none⟩, .plain .clc⟩,
  ⟨0xD8, ⟨.cld, .implied, 1, 2, .none⟩, .plain .cld⟩,
  ⟨0x58, ⟨.cli, .implied, 1, 2, .none⟩, .plain .cli⟩,
  ⟨0xB8, ⟨.clv, .implied, 1, 2, .none⟩, .plain .clv⟩,
  ⟨0xC9, ⟨.cmp, .immediate, 2, 2, .none⟩, .byte .cmpImm⟩,
  ⟨0xC5, ⟨.cmp, .zeroPage, 2, 3, .none⟩, .byte .cmpZp⟩,
  ⟨0xD5, ⟨.cmp, .zeroPageX, 2, 4, .none⟩, .byte .cmpZpX⟩,
  ⟨0xCD, ⟨.cmp, .absolute, 3, 4, .none⟩, .word .cmpAbs⟩,
  ⟨0xDD, ⟨.cmp, .absoluteX, 3, 4, .pageCross⟩, .word .cmpAbsX⟩,
  ⟨0xD9, ⟨.cmp, .absoluteY, 3, 4, .pageCross⟩, .word .cmpAbsY⟩,
  ⟨0xC1, ⟨.cmp, .indirectX, 2, 6, .none⟩, .byte .cmpIndX⟩,
  ⟨0xD1, ⟨.cmp, .indirectY, 2, 5, .pageCross⟩, .byte .cmpIndY⟩,
  ⟨0xE0, ⟨.cpx, .immediate, 2, 2, .none⟩, .byte .cpxImm⟩,
  ⟨0xE4, ⟨.cpx, .zeroPage, 2, 3, .none⟩, .byte .cpxZp⟩,
  ⟨0xEC, ⟨.cpx, .absolute, 3, 4, .none⟩, .word .cpxAbs⟩,
  ⟨0xC0, ⟨.cpy, .immediate, 2, 2, .none⟩, .byte .cpyImm⟩,
  ⟨0xC4, ⟨.cpy, .zeroPage, 2, 3, .none⟩, .byte .cpyZp⟩,
  ⟨0xCC, ⟨.cpy, .absolute, 3, 4, .none⟩, .word .cpyAbs⟩]

/-- The rows of R86 from DEC to INC. -/
def opRowsDecToInc : List OpRow := [
  ⟨0xC6, ⟨.dec, .zeroPage, 2, 5, .none⟩, .byte .decZp⟩,
  ⟨0xD6, ⟨.dec, .zeroPageX, 2, 6, .none⟩, .byte .decZpX⟩,
  ⟨0xCE, ⟨.dec, .absolute, 3, 6, .none⟩, .word .decAbs⟩,
  ⟨0xDE, ⟨.dec, .absoluteX, 3, 7, .none⟩, .word .decAbsX⟩,
  ⟨0xCA, ⟨.dex, .implied, 1, 2, .none⟩, .plain .dex⟩,
  ⟨0x88, ⟨.dey, .implied, 1, 2, .none⟩, .plain .dey⟩,
  ⟨0x49, ⟨.eor, .immediate, 2, 2, .none⟩, .byte .eorImm⟩,
  ⟨0x45, ⟨.eor, .zeroPage, 2, 3, .none⟩, .byte .eorZp⟩,
  ⟨0x55, ⟨.eor, .zeroPageX, 2, 4, .none⟩, .byte .eorZpX⟩,
  ⟨0x4D, ⟨.eor, .absolute, 3, 4, .none⟩, .word .eorAbs⟩,
  ⟨0x5D, ⟨.eor, .absoluteX, 3, 4, .pageCross⟩, .word .eorAbsX⟩,
  ⟨0x59, ⟨.eor, .absoluteY, 3, 4, .pageCross⟩, .word .eorAbsY⟩,
  ⟨0x41, ⟨.eor, .indirectX, 2, 6, .none⟩, .byte .eorIndX⟩,
  ⟨0x51, ⟨.eor, .indirectY, 2, 5, .pageCross⟩, .byte .eorIndY⟩,
  ⟨0xE6, ⟨.inc, .zeroPage, 2, 5, .none⟩, .byte .incZp⟩,
  ⟨0xF6, ⟨.inc, .zeroPageX, 2, 6, .none⟩, .byte .incZpX⟩,
  ⟨0xEE, ⟨.inc, .absolute, 3, 6, .none⟩, .word .incAbs⟩,
  ⟨0xFE, ⟨.inc, .absoluteX, 3, 7, .none⟩, .word .incAbsX⟩]

/-- The rows of R86 from INX to LDX. -/
def opRowsInxToLdx : List OpRow := [
  ⟨0xE8, ⟨.inx, .implied, 1, 2, .none⟩, .plain .inx⟩,
  ⟨0xC8, ⟨.iny, .implied, 1, 2, .none⟩, .plain .iny⟩,
  ⟨0x4C, ⟨.jmp, .absoluteJump, 3, 3, .none⟩, .word .jmpAbs⟩,
  ⟨0x6C, ⟨.jmp, .indirectJump, 3, 5, .none⟩, .word .jmpInd⟩,
  ⟨0x20, ⟨.jsr, .absoluteJump, 3, 6, .none⟩, .word .jsr⟩,
  ⟨0xA9, ⟨.lda, .immediate, 2, 2, .none⟩, .byte .ldaImm⟩,
  ⟨0xA5, ⟨.lda, .zeroPage, 2, 3, .none⟩, .byte .ldaZp⟩,
  ⟨0xB5, ⟨.lda, .zeroPageX, 2, 4, .none⟩, .byte .ldaZpX⟩,
  ⟨0xAD, ⟨.lda, .absolute, 3, 4, .none⟩, .word .ldaAbs⟩,
  ⟨0xBD, ⟨.lda, .absoluteX, 3, 4, .pageCross⟩, .word .ldaAbsX⟩,
  ⟨0xB9, ⟨.lda, .absoluteY, 3, 4, .pageCross⟩, .word .ldaAbsY⟩,
  ⟨0xA1, ⟨.lda, .indirectX, 2, 6, .none⟩, .byte .ldaIndX⟩,
  ⟨0xB1, ⟨.lda, .indirectY, 2, 5, .pageCross⟩, .byte .ldaIndY⟩,
  ⟨0xA2, ⟨.ldx, .immediate, 2, 2, .none⟩, .byte .ldxImm⟩,
  ⟨0xA6, ⟨.ldx, .zeroPage, 2, 3, .none⟩, .byte .ldxZp⟩,
  ⟨0xB6, ⟨.ldx, .zeroPageY, 2, 4, .none⟩, .byte .ldxZpY⟩,
  ⟨0xAE, ⟨.ldx, .absolute, 3, 4, .none⟩, .word .ldxAbs⟩,
  ⟨0xBE, ⟨.ldx, .absoluteY, 3, 4, .pageCross⟩, .word .ldxAbsY⟩]

/-- The rows of R86 from LDY to ORA. -/
def opRowsLdyToOra : List OpRow := [
  ⟨0xA0, ⟨.ldy, .immediate, 2, 2, .none⟩, .byte .ldyImm⟩,
  ⟨0xA4, ⟨.ldy, .zeroPage, 2, 3, .none⟩, .byte .ldyZp⟩,
  ⟨0xB4, ⟨.ldy, .zeroPageX, 2, 4, .none⟩, .byte .ldyZpX⟩,
  ⟨0xAC, ⟨.ldy, .absolute, 3, 4, .none⟩, .word .ldyAbs⟩,
  ⟨0xBC, ⟨.ldy, .absoluteX, 3, 4, .pageCross⟩, .word .ldyAbsX⟩,
  ⟨0x4A, ⟨.lsr, .accumulator, 1, 2, .none⟩, .plain .lsrAcc⟩,
  ⟨0x46, ⟨.lsr, .zeroPage, 2, 5, .none⟩, .byte .lsrZp⟩,
  ⟨0x56, ⟨.lsr, .zeroPageX, 2, 6, .none⟩, .byte .lsrZpX⟩,
  ⟨0x4E, ⟨.lsr, .absolute, 3, 6, .none⟩, .word .lsrAbs⟩,
  ⟨0x5E, ⟨.lsr, .absoluteX, 3, 7, .none⟩, .word .lsrAbsX⟩,
  ⟨0xEA, ⟨.nop, .implied, 1, 2, .none⟩, .plain .nop⟩,
  ⟨0x09, ⟨.ora, .immediate, 2, 2, .none⟩, .byte .oraImm⟩,
  ⟨0x05, ⟨.ora, .zeroPage, 2, 3, .none⟩, .byte .oraZp⟩,
  ⟨0x15, ⟨.ora, .zeroPageX, 2, 4, .none⟩, .byte .oraZpX⟩,
  ⟨0x0D, ⟨.ora, .absolute, 3, 4, .none⟩, .word .oraAbs⟩,
  ⟨0x1D, ⟨.ora, .absoluteX, 3, 4, .pageCross⟩, .word .oraAbsX⟩,
  ⟨0x19, ⟨.ora, .absoluteY, 3, 4, .pageCross⟩, .word .oraAbsY⟩,
  ⟨0x01, ⟨.ora, .indirectX, 2, 6, .none⟩, .byte .oraIndX⟩,
  ⟨0x11, ⟨.ora, .indirectY, 2, 5, .pageCross⟩, .byte .oraIndY⟩]

/-- The rows of R86 from PHA to RTS. -/
def opRowsPhaToRts : List OpRow := [
  ⟨0x48, ⟨.pha, .implied, 1, 3, .none⟩, .plain .pha⟩,
  ⟨0x08, ⟨.php, .implied, 1, 3, .none⟩, .plain .php⟩,
  ⟨0x68, ⟨.pla, .implied, 1, 4, .none⟩, .plain .pla⟩,
  ⟨0x28, ⟨.plp, .implied, 1, 4, .none⟩, .plain .plp⟩,
  ⟨0x2A, ⟨.rol, .accumulator, 1, 2, .none⟩, .plain .rolAcc⟩,
  ⟨0x26, ⟨.rol, .zeroPage, 2, 5, .none⟩, .byte .rolZp⟩,
  ⟨0x36, ⟨.rol, .zeroPageX, 2, 6, .none⟩, .byte .rolZpX⟩,
  ⟨0x2E, ⟨.rol, .absolute, 3, 6, .none⟩, .word .rolAbs⟩,
  ⟨0x3E, ⟨.rol, .absoluteX, 3, 7, .none⟩, .word .rolAbsX⟩,
  ⟨0x6A, ⟨.ror, .accumulator, 1, 2, .none⟩, .plain .rorAcc⟩,
  ⟨0x66, ⟨.ror, .zeroPage, 2, 5, .none⟩, .byte .rorZp⟩,
  ⟨0x76, ⟨.ror, .zeroPageX, 2, 6, .none⟩, .byte .rorZpX⟩,
  ⟨0x6E, ⟨.ror, .absolute, 3, 6, .none⟩, .word .rorAbs⟩,
  ⟨0x7E, ⟨.ror, .absoluteX, 3, 7, .none⟩, .word .rorAbsX⟩,
  ⟨0x40, ⟨.rti, .implied, 1, 6, .none⟩, .plain .rti⟩,
  ⟨0x60, ⟨.rts, .implied, 1, 6, .none⟩, .plain .rts⟩]

/-- The rows of R86 from SBC to STA. -/
def opRowsSbcToSta : List OpRow := [
  ⟨0xE9, ⟨.sbc, .immediate, 2, 2, .none⟩, .byte .sbcImm⟩,
  ⟨0xE5, ⟨.sbc, .zeroPage, 2, 3, .none⟩, .byte .sbcZp⟩,
  ⟨0xF5, ⟨.sbc, .zeroPageX, 2, 4, .none⟩, .byte .sbcZpX⟩,
  ⟨0xED, ⟨.sbc, .absolute, 3, 4, .none⟩, .word .sbcAbs⟩,
  ⟨0xFD, ⟨.sbc, .absoluteX, 3, 4, .pageCross⟩, .word .sbcAbsX⟩,
  ⟨0xF9, ⟨.sbc, .absoluteY, 3, 4, .pageCross⟩, .word .sbcAbsY⟩,
  ⟨0xE1, ⟨.sbc, .indirectX, 2, 6, .none⟩, .byte .sbcIndX⟩,
  ⟨0xF1, ⟨.sbc, .indirectY, 2, 5, .pageCross⟩, .byte .sbcIndY⟩,
  ⟨0x38, ⟨.sec, .implied, 1, 2, .none⟩, .plain .sec⟩,
  ⟨0xF8, ⟨.sed, .implied, 1, 2, .none⟩, .plain .sed⟩,
  ⟨0x78, ⟨.sei, .implied, 1, 2, .none⟩, .plain .sei⟩,
  ⟨0x85, ⟨.sta, .zeroPage, 2, 3, .none⟩, .byte .staZp⟩,
  ⟨0x95, ⟨.sta, .zeroPageX, 2, 4, .none⟩, .byte .staZpX⟩,
  ⟨0x8D, ⟨.sta, .absolute, 3, 4, .none⟩, .word .staAbs⟩,
  ⟨0x9D, ⟨.sta, .absoluteX, 3, 5, .none⟩, .word .staAbsX⟩,
  ⟨0x99, ⟨.sta, .absoluteY, 3, 5, .none⟩, .word .staAbsY⟩,
  ⟨0x81, ⟨.sta, .indirectX, 2, 6, .none⟩, .byte .staIndX⟩,
  ⟨0x91, ⟨.sta, .indirectY, 2, 6, .none⟩, .byte .staIndY⟩]

/-- The rows of R86 from STX to TYA. -/
def opRowsStxToTya : List OpRow := [
  ⟨0x86, ⟨.stx, .zeroPage, 2, 3, .none⟩, .byte .stxZp⟩,
  ⟨0x96, ⟨.stx, .zeroPageY, 2, 4, .none⟩, .byte .stxZpY⟩,
  ⟨0x8E, ⟨.stx, .absolute, 3, 4, .none⟩, .word .stxAbs⟩,
  ⟨0x84, ⟨.sty, .zeroPage, 2, 3, .none⟩, .byte .styZp⟩,
  ⟨0x94, ⟨.sty, .zeroPageX, 2, 4, .none⟩, .byte .styZpX⟩,
  ⟨0x8C, ⟨.sty, .absolute, 3, 4, .none⟩, .word .styAbs⟩,
  ⟨0xAA, ⟨.tax, .implied, 1, 2, .none⟩, .plain .tax⟩,
  ⟨0xA8, ⟨.tay, .implied, 1, 2, .none⟩, .plain .tay⟩,
  ⟨0xBA, ⟨.tsx, .implied, 1, 2, .none⟩, .plain .tsx⟩,
  ⟨0x8A, ⟨.txa, .implied, 1, 2, .none⟩, .plain .txa⟩,
  ⟨0x9A, ⟨.txs, .implied, 1, 2, .none⟩, .plain .txs⟩,
  ⟨0x98, ⟨.tya, .implied, 1, 2, .none⟩, .plain .tya⟩]

/-- `OPTABLE`: the 151 rows of R86. -/
def opTable : List OpRow :=
  opRowsAdcToAnd
    ++ opRowsAslToBvs
    ++ opRowsClcToCpy
    ++ opRowsDecToInc
    ++ opRowsInxToLdx
    ++ opRowsLdyToOra
    ++ opRowsPhaToRts
    ++ opRowsSbcToSta
    ++ opRowsStxToTya

/-- The row of an opcode byte, if it has one: the lookup on the whole byte (R83, R84). -/
def opRow? (op : Byte) : Option OpRow := opTable.find? fun row => row.opcode == op

/-! ## Decoding -/

/-- Why a byte sequence is not an instruction. -/
inductive DecodeError where
  /-- No byte at all. -/
  | empty
  /-- The first byte has no row (R84, R88). -/
  | unrecognizedOpcode (op : Byte)
  /-- The row of the first byte needs more operand bytes than there are (R80, R82). -/
  | missingOperand (op : Byte)
  deriving DecidableEq, Repr

/-- The instruction that a row makes of the two bytes after its opcode; a shorter row does not look at
the bytes it has no use for. -/
def Build.apply : Build → Byte → Byte → Instr
  | .plain i, _, _ => i
  | .byte f, b1, _ => f b1
  | .word f, b1, b2 => f (wordOf b2 b1)

/-- The instruction at the front of the operand bytes, with the rest; none if they are too few. -/
def Build.take : Build → List Byte → Option (Instr × List Byte)
  | .plain i, bs => some (i, bs)
  | .byte f, b1 :: bs => some (f b1, bs)
  | .byte _, [] => none
  | .word f, b1 :: b2 :: bs => some (f (wordOf b2 b1), bs)
  | .word _, [_] => none
  | .word _, [] => none

/-- The instruction at the front of a byte sequence, with the rest of it (R84). -/
def decode : List Byte → Except DecodeError (Instr × List Byte)
  | [] => .error .empty
  | op :: bs =>
    match opRow? op with
    | none => .error (.unrecognizedOpcode op)
    | some row =>
      match row.build.take bs with
      | none => .error (.missingOperand op)
      | some found => .ok found

/-- The decoder on a word numbered as the opcode table numbers its bits: bit 0 is the least
significant bit of the first byte; every bit above `nbits` is 0. -/
def decodeTableWord (nbits w : Nat) : Option Instr :=
  let v := w % 2 ^ nbits
  match decode [BitVec.ofNat 8 v, BitVec.ofNat 8 (v / 256), BitVec.ofNat 8 (v / 65536)] with
  | .ok (i, _) => some i
  | .error _ => none

/-! ## Encoding -/

/-- The opcode byte of an instruction (R86). -/
def Instr.opcode : Instr → Byte
  | .adcImm _ => 0x69
  | .adcZp _ => 0x65
  | .adcZpX _ => 0x75
  | .adcAbs _ => 0x6D
  | .adcAbsX _ => 0x7D
  | .adcAbsY _ => 0x79
  | .adcIndX _ => 0x61
  | .adcIndY _ => 0x71
  | .andImm _ => 0x29
  | .andZp _ => 0x25
  | .andZpX _ => 0x35
  | .andAbs _ => 0x2D
  | .andAbsX _ => 0x3D
  | .andAbsY _ => 0x39
  | .andIndX _ => 0x21
  | .andIndY _ => 0x31
  | .aslAcc => 0x0A
  | .aslZp _ => 0x06
  | .aslZpX _ => 0x16
  | .aslAbs _ => 0x0E
  | .aslAbsX _ => 0x1E
  | .bcc _ => 0x90
  | .bcs _ => 0xB0
  | .beq _ => 0xF0
  | .bitZp _ => 0x24
  | .bitAbs _ => 0x2C
  | .bmi _ => 0x30
  | .bne _ => 0xD0
  | .bpl _ => 0x10
  | .brk => 0x00
  | .bvc _ => 0x50
  | .bvs _ => 0x70
  | .clc => 0x18
  | .cld => 0xD8
  | .cli => 0x58
  | .clv => 0xB8
  | .cmpImm _ => 0xC9
  | .cmpZp _ => 0xC5
  | .cmpZpX _ => 0xD5
  | .cmpAbs _ => 0xCD
  | .cmpAbsX _ => 0xDD
  | .cmpAbsY _ => 0xD9
  | .cmpIndX _ => 0xC1
  | .cmpIndY _ => 0xD1
  | .cpxImm _ => 0xE0
  | .cpxZp _ => 0xE4
  | .cpxAbs _ => 0xEC
  | .cpyImm _ => 0xC0
  | .cpyZp _ => 0xC4
  | .cpyAbs _ => 0xCC
  | .decZp _ => 0xC6
  | .decZpX _ => 0xD6
  | .decAbs _ => 0xCE
  | .decAbsX _ => 0xDE
  | .dex => 0xCA
  | .dey => 0x88
  | .eorImm _ => 0x49
  | .eorZp _ => 0x45
  | .eorZpX _ => 0x55
  | .eorAbs _ => 0x4D
  | .eorAbsX _ => 0x5D
  | .eorAbsY _ => 0x59
  | .eorIndX _ => 0x41
  | .eorIndY _ => 0x51
  | .incZp _ => 0xE6
  | .incZpX _ => 0xF6
  | .incAbs _ => 0xEE
  | .incAbsX _ => 0xFE
  | .inx => 0xE8
  | .iny => 0xC8
  | .jmpAbs _ => 0x4C
  | .jmpInd _ => 0x6C
  | .jsr _ => 0x20
  | .ldaImm _ => 0xA9
  | .ldaZp _ => 0xA5
  | .ldaZpX _ => 0xB5
  | .ldaAbs _ => 0xAD
  | .ldaAbsX _ => 0xBD
  | .ldaAbsY _ => 0xB9
  | .ldaIndX _ => 0xA1
  | .ldaIndY _ => 0xB1
  | .ldxImm _ => 0xA2
  | .ldxZp _ => 0xA6
  | .ldxZpY _ => 0xB6
  | .ldxAbs _ => 0xAE
  | .ldxAbsY _ => 0xBE
  | .ldyImm _ => 0xA0
  | .ldyZp _ => 0xA4
  | .ldyZpX _ => 0xB4
  | .ldyAbs _ => 0xAC
  | .ldyAbsX _ => 0xBC
  | .lsrAcc => 0x4A
  | .lsrZp _ => 0x46
  | .lsrZpX _ => 0x56
  | .lsrAbs _ => 0x4E
  | .lsrAbsX _ => 0x5E
  | .nop => 0xEA
  | .oraImm _ => 0x09
  | .oraZp _ => 0x05
  | .oraZpX _ => 0x15
  | .oraAbs _ => 0x0D
  | .oraAbsX _ => 0x1D
  | .oraAbsY _ => 0x19
  | .oraIndX _ => 0x01
  | .oraIndY _ => 0x11
  | .pha => 0x48
  | .php => 0x08
  | .pla => 0x68
  | .plp => 0x28
  | .rolAcc => 0x2A
  | .rolZp _ => 0x26
  | .rolZpX _ => 0x36
  | .rolAbs _ => 0x2E
  | .rolAbsX _ => 0x3E
  | .rorAcc => 0x6A
  | .rorZp _ => 0x66
  | .rorZpX _ => 0x76
  | .rorAbs _ => 0x6E
  | .rorAbsX _ => 0x7E
  | .rti => 0x40
  | .rts => 0x60
  | .sbcImm _ => 0xE9
  | .sbcZp _ => 0xE5
  | .sbcZpX _ => 0xF5
  | .sbcAbs _ => 0xED
  | .sbcAbsX _ => 0xFD
  | .sbcAbsY _ => 0xF9
  | .sbcIndX _ => 0xE1
  | .sbcIndY _ => 0xF1
  | .sec => 0x38
  | .sed => 0xF8
  | .sei => 0x78
  | .staZp _ => 0x85
  | .staZpX _ => 0x95
  | .staAbs _ => 0x8D
  | .staAbsX _ => 0x9D
  | .staAbsY _ => 0x99
  | .staIndX _ => 0x81
  | .staIndY _ => 0x91
  | .stxZp _ => 0x86
  | .stxZpY _ => 0x96
  | .stxAbs _ => 0x8E
  | .styZp _ => 0x84
  | .styZpX _ => 0x94
  | .styAbs _ => 0x8C
  | .tax => 0xAA
  | .tay => 0xA8
  | .tsx => 0xBA
  | .txa => 0x8A
  | .txs => 0x9A
  | .tya => 0x98

/-- The operand bytes, in ascending address order (R80, R85). -/
def Operand.bytes : Operand → List Byte
  | .immediate b => [b]
  | .zeroPage z => [z]
  | .zeroPageX z => [z]
  | .zeroPageY z => [z]
  | .absolute w => [lowByte w, highByte w]
  | .absoluteX w => [lowByte w, highByte w]
  | .absoluteY w => [lowByte w, highByte w]
  | .indirectX z => [z]
  | .indirectY z => [z]
  | .implied => []
  | .accumulator => []
  | .relative off => [off]
  | .absoluteJump w => [lowByte w, highByte w]
  | .indirectJump w => [lowByte w, highByte w]

/-- The bytes of an instruction (R80). -/
def encode (i : Instr) : List Byte := i.opcode :: i.operand.bytes

end Sys2Proof
end

