-- ==== Sys2Proof/Config.lean ====
section
/-! DEFINITION. The parameters of spec/00_scope.md R7 that reset and the host's `load` use, and the
one value the model chose (`unlistedByte`). The parameters that an access of a running program could
show wrong (`memSize`, `stackBase`) stand in Machine/Ops.lean; the opcode table (`OPTABLE`) stands in
Decode.lean. -/

namespace Sys2Proof.Config

/-- What a byte that memory does not list reads as. DESIGN CHOICE (log entry 1): the spec leaves
INIT_MEM, memory before `load`, a launch parameter (70_reset_and_hazards.md R309); its own vectors take
all zeros. In a State every memory is possible: any byte but this one is listed. -/
def unlistedByte : Byte := 0x00

/-- `RESET_VECTOR`: the address of the vector's low byte; the high byte follows it (R7, R63). -/
def resetVector : Word := 0xFFFC

/-- `LOAD_BASE`: where the host's `load` puts a program (R7, R64, R305). -/
def loadBase : Word := 0x8000

/-- `LOAD_MAX`: the longest program `load` accepts (R7, R306). -/
def loadMax : Nat := 0x7FFF

/-- `A_RESET`, `X_RESET`, `Y_RESET` (R7, R45). -/
def axyReset : Byte := 0x00

/-- `S_RESET` (R7, R45). -/
def sReset : Byte := 0xFD

/-- `P_RESET`: Break2 and InterruptDisable set, all else clear (R7, R45). -/
def pReset : Byte := 0x24

end Sys2Proof.Config
end

