-- ==== Sys2Proof/Machine/State.lean ====
section
/-! DEFINITION. The state of the machine as plain data (spec/10_state.md R20 to R45), the fatal
conditions (spec/60_exceptions.md R270), the reasons a step has no next state, and the state after
reset. -/

namespace Sys2Proof.Machine

/-- A memory: the listed bytes, address and value, in a canonical form (`Memory.wf` in Machine/Ops.lean:
addresses strictly rising, each below `memSize`, no entry equal to what an unlisted address reads as).
An unlisted address reads as `Config.unlistedByte`, so every byte always holds a value (R40) and every
contents of the 65535 bytes is some `Memory`. -/
abbrev Memory := List Host.Cell

/-- The three fatal conditions with the value each records (60_exceptions.md R270). -/
inductive FatalCondition where
  /-- Code 1: the fetched byte has no row in the opcode table (R271); records the byte. -/
  | unrecognizedOpcode (op : Byte)
  /-- Code 2: an operand without an addressing mode reached the resolver (R272). No program can cause
  it (30_encoding.md R90 a). -/
  | unsupportedAddressingMode
  /-- Code 3: an access to an address with no byte (R273); records the address. -/
  | outOfRangeAddress (a : Word)
  deriving DecidableEq, Repr

/-- The run state (10_state.md R42; 41_execution_cycle.md R130). -/
inductive RunState where
  /-- The next step executes the instruction at `pc`. -/
  | running
  /-- The halt opcode has been decoded: the only good end of a run. -/
  | halted
  /-- A fatal condition was detected: an end that is never a result. -/
  | faulted (c : FatalCondition)
  deriving DecidableEq, Repr

/-- The whole state (R20). `pc1` of R41 is a local of the step (log entry 7). -/
structure State where
  /-- A, the accumulator (R21). -/
  a   : Byte
  /-- X, an index register (R22). -/
  x   : Byte
  /-- Y, an index register (R23). -/
  y   : Byte
  /-- S, the stack pointer: an index into the stack page (R24). -/
  sp  : Byte
  /-- P, the status byte: C, Z, I, D, B, B2, V, N in bits 0 to 7 (R28). -/
  p   : Byte
  /-- The program counter: `pc0` between steps, `pc1` while a handler runs (R26). -/
  pc  : Word
  /-- M, the memory (R40). -/
  mem : Memory
  /-- The run state (R42). -/
  run : RunState
  deriving DecidableEq, Repr

/-- Why a step has no next state. Both are raised by `step` alone, in a state whose run state says that
there is no further step; both are safe (the hardware stops there too). A fatal condition itself is no
`Fault`: R276 describes its entry, and the step that meets it answers the next state R276 gives
(log entry 3). -/
inductive Fault where
  /-- The machine is Halted: "there is no further step" (R130). Raised by `step`; safe. -/
  | halted
  /-- The machine is Faulted: "the CPU itself does not resume after one" (R130, R277). Raised by `step`;
  safe. -/
  | faulted (c : FatalCondition)
  deriving DecidableEq, Repr

/-- Why an instruction has no meaning. -/
inductive Refusal where
  /-- The instruction of that mnemonic is not modelled yet. Raised by an arm of `exec` alone; safe. No
  arm raises it: every instruction has its meaning. -/
  | notModelled (mnemonic : String)
  deriving DecidableEq, Repr

/-- What a handler or a step answers. -/
abbrev Result := Host.Outcome State Fault Refusal

/-- The machine right after reset (R45, R300), with nothing loaded. Reset leaves memory as it is; here
it lists nothing, so the vector's two bytes read `Config.unlistedByte` and `pc` is 0x0000 (DESIGN CHOICE,
log entries 1 and 4). `State.cpuReset` in Machine/Ops.lean is reset from any state. -/
def State.reset : State where
  a := Config.axyReset
  x := Config.axyReset
  y := Config.axyReset
  sp := Config.sReset
  p := Config.pReset
  pc := 0x0000
  mem := []
  run := .running

end Sys2Proof.Machine
end

