-- ==== Sys2Proof/Machine/Ops.lean ====
section
/-! DEFINITION. The named operations over memory and registers: memory in its canonical form, MemRead
and MemWrite (spec/20_memory.md R50 to R58), the register port (spec/00_scope.md R9), taking a fatal
condition and reset, the only way back from one (spec/60_exceptions.md R276, R277;
spec/70_reset_and_hazards.md R300), and the stack primitives (spec/47_stack.md R210, R211). -/

namespace Sys2Proof.Machine

/-! ## Parameters an access can show -/

/-- `MEM_SIZE`: the bytes that exist are those at addresses below it (00_scope.md R7, R51). -/
def memSize : Nat := 65535

/-- `STACK_BASE`: the address of the stack page (00_scope.md R7, R62). -/
def stackBase : Word := 0x0100

/-! ## Extension (00_scope.md R8) -/

/-- `zext_16(b)`. -/
def zext16 (b : Byte) : Word := b.zeroExtend 16

/-- `sext_16(b)`: the word whose two's complement value is that of `b`. -/
def sext16 (b : Byte) : Word := b.signExtend 16

/-! ## Memory as a list -/

/-- The byte at an address: the listed one, or what an unlisted address reads as. -/
def Memory.peek : Memory → Nat → Byte
  | [], _ => Config.unlistedByte
  | (b, v) :: rest, a => if b = a then v else Memory.peek rest a

/-- The memory without an address's entry. -/
def Memory.erase (m : Memory) (a : Nat) : Memory := m.filter fun c => c.1 != a

/-- The memory with an entry put before the first one at a higher address. -/
def Memory.enter : Memory → Nat → Byte → Memory
  | [], a, v => [(a, v)]
  | (b, w) :: rest, a, v => if a < b then (a, v) :: (b, w) :: rest else (b, w) :: Memory.enter rest a v

/-- The memory with the byte at `a` set to `v`, in the canonical form: writing what an unlisted address
reads as removes the entry. -/
def Memory.poke (m : Memory) (a : Nat) (v : Byte) : Memory :=
  if v = Config.unlistedByte then Memory.erase m a else Memory.enter (Memory.erase m a) a v

/-- Every address of the memory is above `lo`, and they rise strictly. -/
def Memory.risingFrom : Nat → Memory → Bool
  | _, [] => true
  | lo, (a, _) :: rest => decide (lo ≤ a) && Memory.risingFrom (a + 1) rest

/-- The canonical form: addresses strictly rising and existing (R51), and no entry that equals what an
unlisted address reads as. -/
def Memory.wf (m : Memory) : Bool :=
  Memory.risingFrom 0 m && m.all (fun c => decide (c.1 < memSize) && c.2 != Config.unlistedByte)

/-! ## Field updates -/

/-- The state with its memory replaced. -/
def State.setMem (s : State) (m : Memory) : State := { s with mem := m }

/-- `pc <- target` (R9). -/
def State.setPc (s : State) (target : Word) : State := { s with pc := target }

/-- The state with its status byte replaced. -/
def State.setP (s : State) (p : Byte) : State := { s with p := p }

/-- The state with its run state replaced. -/
def State.setRun (s : State) (r : RunState) : State := { s with run := r }

/-- `x[r]`: the register file's read port (R9). -/
def State.reg (s : State) : Reg → Byte
  | .a => s.a
  | .x => s.x
  | .y => s.y
  | .s => s.sp

/-- `x[r] <- v`: the register file's write port (R9). -/
def State.setReg (s : State) : Reg → Byte → State
  | .a, v => { s with a := v }
  | .x, v => { s with x := v }
  | .y, v => { s with y := v }
  | .s, v => { s with sp := v }

/-! ## Taking a fatal condition, and reset -/

/-- `raise c`: the step stops here, the run state becomes Faulted; nothing is saved, writes already made
stay, and `pc` stays where the step had it (R276). -/
def raise (c : FatalCondition) (s : State) : State := s.setRun (.faulted c)

/-- The outcome of raising: the next state of R276 (log entry 3). -/
def takeFatal (c : FatalCondition) (s : State) : Result := .next (raise c s)

/-- Go on with a value, or take the fatal condition in the state `s`. -/
def withValue {α : Type} (r : Except FatalCondition α) (s : State) (k : α → Result) : Result :=
  match r with
  | .ok v => k v
  | .error c => takeFatal c s

/-- Reset as one atomic action (70_reset_and_hazards.md R300). It is the only return from Halted or
Faulted (R277); memory is not written (R302); the vector's bytes exist, so it cannot raise. -/
def State.cpuReset (s : State) : State where
  a := Config.axyReset
  x := Config.axyReset
  y := Config.axyReset
  sp := Config.sReset
  p := Config.pReset
  pc := wordOf (s.mem.peek (Config.resetVector.toNat + 1)) (s.mem.peek Config.resetVector.toNat)
  mem := s.mem
  run := .running

/-! ## MemRead and MemWrite -/

/-- The address has a byte (R51). -/
def present (a : Word) : Bool := decide (a.toNat < memSize)

/-- `MemRead(a, 1)` (R52). A read changes nothing. -/
def memRead (s : State) (a : Word) : Except FatalCondition Byte :=
  if present a then .ok (s.mem.peek a.toNat) else .error (.outOfRangeAddress a)

/-- `MemRead(a, 2)`: little-endian, the low byte first (R54). -/
def memRead16 (s : State) (a : Word) : Except FatalCondition Word :=
  match memRead s a with
  | .error c => .error c
  | .ok lo =>
    match memRead s (a + 1) with
    | .error c => .error c
    | .ok hi => .ok (wordOf hi lo)

/-- `MemWrite(a, 1, v)` (R53). -/
def memWrite (s : State) (a : Word) (v : Byte) : Except FatalCondition State :=
  if present a then .ok (s.setMem (s.mem.poke a.toNat v)) else .error (.outOfRangeAddress a)

/-- `MemWrite(a, 2, v)`: the low byte at `a`, then the high byte at `a + 1` (R55); if the second write
raises, the first stays made (R276). No instruction uses it. -/
def memWrite16 (s : State) (a : Word) (v : Word) : Result :=
  withValue (memWrite s a (lowByte v)) s fun t =>
    withValue (memWrite t (a + 1) (highByte v)) t fun u => .next u

/-- Write a byte and end the handler. -/
def writeTo (a : Word) (v : Byte) (s : State) : Result :=
  withValue (memWrite s a v) s fun t => .next t

/-! ## The stack -/

/-- The stack address: `STACK_BASE + S` (R24, R62). -/
def stackAddress (s : State) : Word := stackBase + zext16 s.sp

/-- `Push(v)`: store at the stack address, then S minus 1 mod 256 (R210). It never raises: the stack
page exists. -/
def push (v : Byte) (s : State) : State :=
  (s.setMem (s.mem.poke (stackAddress s).toNat v)).setReg .s (s.sp - 1)

/-- S plus 1 mod 256, the first half of `Pop` (R211). -/
def popped (s : State) : State := s.setReg .s (s.sp + 1)

/-- The byte that `Pop` returns: the one at the stack address after the increment (R211). It never
raises. -/
def topByte (s : State) : Byte := s.mem.peek (stackAddress (popped s)).toNat

end Sys2Proof.Machine
end

