-- ==== Sys2Proof/Machine/Flags.lean ====
section
/-! DEFINITION. The status byte and every flag computation: the bits of P (spec/10_state.md R28), SetZN
(R33), the add and subtract contract (spec/45_arith_compare.md R190, R191), compare (R192), BIT
(spec/44_logic.md R183), the shifts (spec/46_shift_rotate.md R200 to R203), and the status byte as it is
pushed and pulled (spec/47_stack.md R214, R215). -/

namespace Sys2Proof.Machine

/-! ## The bits of P -/

/-- The bit number of a flag (R28). -/
def flagBit : Flag → Nat
  | .c => 0
  | .z => 1
  | .i => 2
  | .d => 3
  | .b => 4
  | .b2 => 5
  | .v => 6
  | .n => 7

/-- The mask of a flag (R28). -/
def flagMask (f : Flag) : Byte := 1 <<< flagBit f

/-- The flag's bit of a status byte. -/
def getFlag (p : Byte) (f : Flag) : Bool := p.getLsbD (flagBit f)

/-- The status byte with one flag written, the other seven bits kept. -/
def setFlag (p : Byte) (f : Flag) (b : Bool) : Byte :=
  if b then p ||| flagMask f else p &&& ~~~flagMask f

/-- The flag as the state holds it. -/
def State.flag (s : State) (f : Flag) : Bool := getFlag s.p f

/-- `SetZN(v)`: Z is whether `v` is 0, N is its bit 7, no other bit changes (R33). -/
def setZN (p : Byte) (v : Byte) : Byte := setFlag (setFlag p .z (v == 0)) .n (v.getLsbD 7)

/-- A register write that also performs SetZN on the value: the "set accumulator" path for A (R21), and
the same for X and Y (R22, R23). -/
def setResult (r : Reg) (v : Byte) (s : State) : State := (s.setReg r v).setP (setZN s.p v)

/-! ## Add, subtract, compare -/

/-- The unbounded sum `a + m + C` (R190). -/
def addSum (a m : Byte) (c : Bool) : Nat := a.toNat + m.toNat + c.toNat

/-- The sum mod 256. -/
def addResult (a m : Byte) (c : Bool) : Byte := BitVec.ofNat 8 (addSum a m c)

/-- The unsigned carry out of the sum. -/
def addCarry (a m : Byte) (c : Bool) : Bool := decide (addSum a m c > 0xFF)

/-- The signed-overflow bit test, which "is the contract" (R190). -/
def addOverflow (a m : Byte) (c : Bool) : Bool :=
  ((m ^^^ addResult a m c) &&& (addResult a m c ^^^ a) &&& 0x80) != 0

/-- P after an addition: C, V, then Z and N of the result (R190). D is not read (R196). -/
def addStatus (p a m : Byte) : Byte :=
  let c := getFlag p .c
  setZN (setFlag (setFlag p .c (addCarry a m c)) .v (addOverflow a m c)) (addResult a m c)

/-- SBC's transformed operand: `(0 - m - 1) mod 256` (R191). -/
def subOperand (m : Byte) : Byte := 0 - m - 1

/-- P after a comparison of a register with an operand: C is whether the operand is at most the
register, unsigned; Z and N of the wrapped difference (R192). -/
def compareStatus (p r m : Byte) : Byte := setZN (setFlag p .c (decide (m.toNat ≤ r.toNat))) (r - m)

/-- P after BIT: Z of `A & m`, N and V from bits 7 and 6 of `m` (R183). -/
def bitStatus (p a m : Byte) : Byte :=
  setFlag (setFlag (setFlag p .z (a &&& m == 0)) .n (m.getLsbD 7)) .v (m.getLsbD 6)

/-! ## Shifts and rotates -/

/-- The four shifts and rotates. -/
inductive Shift where
  | asl | lsr | rol | ror
  deriving DecidableEq, Repr

/-- The result of a shift of `v` with the previous Carry `c0` (R200 to R203). -/
def shiftResult : Shift → Byte → Bool → Byte
  | .asl, v, _ => v <<< 1
  | .lsr, v, _ => v >>> 1
  | .rol, v, c0 => (v <<< 1) ||| (if c0 then 0x01 else 0x00)
  | .ror, v, c0 => (v >>> 1) ||| (if c0 then 0x80 else 0x00)

/-- The bit shifted out, which becomes Carry (R200 to R203). -/
def shiftCarry : Shift → Byte → Bool
  | .asl, v => v.getLsbD 7
  | .lsr, v => v.getLsbD 0
  | .rol, v => v.getLsbD 7
  | .ror, v => v.getLsbD 0

/-- P after a shift of `v`: C is the bit shifted out, Z and N of the result (R200 to R203). -/
def shiftStatus (k : Shift) (p v : Byte) : Byte :=
  setZN (setFlag p .c (shiftCarry k v)) (shiftResult k v (getFlag p .c))

/-! ## The status byte on the stack -/

/-- The byte PHP pushes: Break and Break2 forced to 1 (R214). -/
def pushedStatus (p : Byte) : Byte := p ||| 0x30

/-- The status byte that PLP and RTI restore from a popped byte: Break cleared, Break2 set (R215). -/
def pulledStatus (v : Byte) : Byte := (v &&& 0xEF) ||| 0x20

end Sys2Proof.Machine
end

