-- ==== Sys2Proof/Machine/Operands.lean ====
section
/-! DEFINITION. The addressing resolver and the operand forms (spec/40_addressing.md R110 to R124).

A handler runs with `pc = pc1`, the address of its first operand byte. The instruction carries the
operand bytes that decode read there; a handler that uses one first checks that its address exists, at
the point where the spec reads it, so that a byte at 0xFFFF raises there (R124; log entry 5).
`resolveAt` is the resolver as the spec writes it, reading the bytes itself. -/

namespace Sys2Proof.Machine

/-! ## Operand bytes -/

/-- The operand byte at `pc1`: the decoded `b`, if its address exists (R85, R124). -/
def operandByte (b : Byte) (s : State) : Except FatalCondition Byte :=
  if present s.pc then .ok b else .error (.outOfRangeAddress s.pc)

/-- The operand word at `pc1` and `pc1 + 1`: the decoded `w`, if both addresses exist, looked at in
ascending order (R85, R124, R72). -/
def operandWord (w : Word) (s : State) : Except FatalCondition Word :=
  if present s.pc then
    if present (s.pc + 1) then .ok w else .error (.outOfRangeAddress (s.pc + 1))
  else .error (.outOfRangeAddress s.pc)

/-! ## Effective addresses -/

/-- `ZpRead16(z)`: the word in zero-page slots `z` and `(z + 1) mod 256`. It never raises (R119). -/
def zpRead16 (z : Byte) (s : State) : Word :=
  wordOf (s.mem.peek (zext16 (z + 1)).toNat) (s.mem.peek (zext16 z).toNat)

/-- The effective address of an operand (R111 to R121). It reads, and changes nothing (R110). -/
def resolve : Operand → State → Except FatalCondition Word
  | .immediate _, s => .ok s.pc
  | .zeroPage z, s => (operandByte z s).map fun b => zext16 b
  | .zeroPageX z, s => (operandByte z s).map fun b => zext16 (b + s.x)
  | .zeroPageY z, s => (operandByte z s).map fun b => zext16 (b + s.y)
  | .absolute w, s => operandWord w s
  | .absoluteX w, s => (operandWord w s).map fun base => base + zext16 s.x
  | .absoluteY w, s => (operandWord w s).map fun base => base + zext16 s.y
  | .indirectX z, s => (operandByte z s).map fun b => zpRead16 (b + s.x) s
  | .indirectY z, s => (operandByte z s).map fun b => zpRead16 b s + zext16 s.y
  | .implied, _ => .error .unsupportedAddressingMode
  | .accumulator, _ => .error .unsupportedAddressingMode
  | .relative _, _ => .error .unsupportedAddressingMode
  | .absoluteJump _, _ => .error .unsupportedAddressingMode
  | .indirectJump _, _ => .error .unsupportedAddressingMode

/-- "Read resolved operand" (R123). An Immediate's data is the operand byte itself, at `pc1` (R111). -/
def readOperand (o : Operand) (s : State) : Except FatalCondition Byte :=
  match o with
  | .immediate b => operandByte b s
  | o =>
    match resolve o s with
    | .ok ea => memRead s ea
    | .error c => .error c

/-- `Resolve(mode)` in the spec's own words: it reads the operand bytes at the current `pc` (R110 to
R121). -/
def resolveAt (m : Mode) (s : State) : Except FatalCondition Word :=
  match m with
  | .immediate => .ok s.pc
  | .zeroPage => (memRead s s.pc).map fun b => zext16 b
  | .zeroPageX => (memRead s s.pc).map fun b => zext16 (b + s.x)
  | .zeroPageY => (memRead s s.pc).map fun b => zext16 (b + s.y)
  | .absolute => memRead16 s s.pc
  | .absoluteX => (memRead16 s s.pc).map fun base => base + zext16 s.x
  | .absoluteY => (memRead16 s s.pc).map fun base => base + zext16 s.y
  | .indirectX => (memRead s s.pc).map fun b => zpRead16 (b + s.x) s
  | .indirectY => (memRead s s.pc).map fun b => zpRead16 b s + zext16 s.y
  | .noneAddressing => .error .unsupportedAddressingMode

/-! ## The pointer of JMP indirect -/

/-- The target that a pointer address gives: with its low byte 0xFF the high byte of the target comes
from the start of the same page (48_control_flow.md R221). -/
def jumpPointer (p : Word) (s : State) : Except FatalCondition Word :=
  if lowByte p = 0xFF then
    match memRead s p with
    | .error c => .error c
    | .ok lo =>
      match memRead s (p &&& 0xFF00) with
      | .error c => .error c
      | .ok hi => .ok (wordOf hi lo)
  else memRead16 s p

end Sys2Proof.Machine
end

