-- ==== Sys2Proof/Machine/Arith.lean ====
section
/-! DEFINITION. Add, subtract and compare (spec/45_arith_compare.md R190 to R197). -/

namespace Sys2Proof.Machine

/-! ## Add and subtract (R190, R191) -/

/-- A takes `A + m + C` mod 256; C, V, Z and N are written. -/
def addTo (m : Byte) (s : State) : State :=
  (s.setReg .a (addResult s.a m (s.flag .c))).setP (addStatus s.p s.a m)

/-- The ADC handler (R190). -/
def addWithCarry (o : Operand) (s : State) : Result :=
  withValue (readOperand o s) s fun m => .next (addTo m s)

/-- The SBC handler: ADC with the operand transformed (R191). -/
def subtractWithCarry (o : Operand) (s : State) : Result :=
  withValue (readOperand o s) s fun m => .next (addTo (subOperand m) s)

/-- ADC Immediate, 0x69 (R190). -/
def execAdcImm (b : Byte) (s : State) : Result := addWithCarry (.immediate b) s

/-- ADC ZeroPage, 0x65 (R190). -/
def execAdcZp (z : Byte) (s : State) : Result := addWithCarry (.zeroPage z) s

/-- ADC ZeroPageX, 0x75 (R190). -/
def execAdcZpX (z : Byte) (s : State) : Result := addWithCarry (.zeroPageX z) s

/-- ADC Absolute, 0x6D (R190). -/
def execAdcAbs (w : Word) (s : State) : Result := addWithCarry (.absolute w) s

/-- ADC AbsoluteX, 0x7D (R190). -/
def execAdcAbsX (w : Word) (s : State) : Result := addWithCarry (.absoluteX w) s

/-- ADC AbsoluteY, 0x79 (R190). -/
def execAdcAbsY (w : Word) (s : State) : Result := addWithCarry (.absoluteY w) s

/-- ADC IndirectX, 0x61 (R190). -/
def execAdcIndX (z : Byte) (s : State) : Result := addWithCarry (.indirectX z) s

/-- ADC IndirectY, 0x71 (R190). -/
def execAdcIndY (z : Byte) (s : State) : Result := addWithCarry (.indirectY z) s

/-- SBC Immediate, 0xE9 (R191). -/
def execSbcImm (b : Byte) (s : State) : Result := subtractWithCarry (.immediate b) s

/-- SBC ZeroPage, 0xE5 (R191). -/
def execSbcZp (z : Byte) (s : State) : Result := subtractWithCarry (.zeroPage z) s

/-- SBC ZeroPageX, 0xF5 (R191). -/
def execSbcZpX (z : Byte) (s : State) : Result := subtractWithCarry (.zeroPageX z) s

/-- SBC Absolute, 0xED (R191). -/
def execSbcAbs (w : Word) (s : State) : Result := subtractWithCarry (.absolute w) s

/-- SBC AbsoluteX, 0xFD (R191). -/
def execSbcAbsX (w : Word) (s : State) : Result := subtractWithCarry (.absoluteX w) s

/-- SBC AbsoluteY, 0xF9 (R191). -/
def execSbcAbsY (w : Word) (s : State) : Result := subtractWithCarry (.absoluteY w) s

/-- SBC IndirectX, 0xE1 (R191). -/
def execSbcIndX (z : Byte) (s : State) : Result := subtractWithCarry (.indirectX z) s

/-- SBC IndirectY, 0xF1 (R191). -/
def execSbcIndY (z : Byte) (s : State) : Result := subtractWithCarry (.indirectY z) s

/-! ## Compare (R192 to R194) -/

/-- The compare handler: C, Z and N from the register and the operand; the register is not written. -/
def compare (r : Reg) (o : Operand) (s : State) : Result :=
  withValue (readOperand o s) s fun m => .next (s.setP (compareStatus s.p (s.reg r) m))

/-- CMP Immediate, 0xC9 (R192). -/
def execCmpImm (b : Byte) (s : State) : Result := compare .a (.immediate b) s

/-- CMP ZeroPage, 0xC5 (R192). -/
def execCmpZp (z : Byte) (s : State) : Result := compare .a (.zeroPage z) s

/-- CMP ZeroPageX, 0xD5 (R192). -/
def execCmpZpX (z : Byte) (s : State) : Result := compare .a (.zeroPageX z) s

/-- CMP Absolute, 0xCD (R192). -/
def execCmpAbs (w : Word) (s : State) : Result := compare .a (.absolute w) s

/-- CMP AbsoluteX, 0xDD (R192). -/
def execCmpAbsX (w : Word) (s : State) : Result := compare .a (.absoluteX w) s

/-- CMP AbsoluteY, 0xD9 (R192). -/
def execCmpAbsY (w : Word) (s : State) : Result := compare .a (.absoluteY w) s

/-- CMP IndirectX, 0xC1 (R192). -/
def execCmpIndX (z : Byte) (s : State) : Result := compare .a (.indirectX z) s

/-- CMP IndirectY, 0xD1 (R192). -/
def execCmpIndY (z : Byte) (s : State) : Result := compare .a (.indirectY z) s

/-- CPX Immediate, 0xE0 (R193). -/
def execCpxImm (b : Byte) (s : State) : Result := compare .x (.immediate b) s

/-- CPX ZeroPage, 0xE4 (R193). -/
def execCpxZp (z : Byte) (s : State) : Result := compare .x (.zeroPage z) s

/-- CPX Absolute, 0xEC (R193). -/
def execCpxAbs (w : Word) (s : State) : Result := compare .x (.absolute w) s

/-- CPY Immediate, 0xC0 (R194). -/
def execCpyImm (b : Byte) (s : State) : Result := compare .y (.immediate b) s

/-- CPY ZeroPage, 0xC4 (R194). -/
def execCpyZp (z : Byte) (s : State) : Result := compare .y (.zeroPage z) s

/-- CPY Absolute, 0xCC (R194). -/
def execCpyAbs (w : Word) (s : State) : Result := compare .y (.absolute w) s

end Sys2Proof.Machine
end

