-- ==== Sys2Proof/Machine/Control.lean ====
section
/-! DEFINITION. Control transfer (spec/48_control_flow.md R220 to R235). A handler is entered with
`pc = pc1`; the value-tested advance of spec/41_execution_cycle.md R134 is `advance` in Machine/Fetch.lean. -/

namespace Sys2Proof.Machine

/-! ## Jumps (R220, R221) -/

/-- JMP AbsoluteJump, 0x4C (R220). -/
def execJmpAbs (w : Word) (s : State) : Result := withValue (operandWord w s) s fun t => .next (s.setPc t)

/-- JMP IndirectJump, 0x6C (R221). -/
def execJmpInd (w : Word) (s : State) : Result := 
  withValue (operandWord w s) s fun p => withValue (jumpPointer p s) s fun t => .next (s.setPc t)

/-! ## Call and returns (R222 to R224) -/

/-- The state after the two pushes of a call: the address of the instruction's last byte, high byte
first (R222). -/
def pushReturn (s : State) : State := push (lowByte (s.pc + 1)) (push (highByte (s.pc + 1)) s)

/-- JSR AbsoluteJump, 0x20 (R222). The pushes come before the two operand bytes are read, and may
overwrite them (R71): the target is what memory holds at `pc1` then, so the decoded word is not used. -/
def execJsr (_w : Word) (s : State) : Result :=
  withValue (memRead16 (pushReturn s) s.pc) (pushReturn s) fun t => .next ((pushReturn s).setPc t)

/-- The word that two pops give, low byte first, plus `plus` mod 65536, as the new `pc`. -/
def pullPc (plus : Word) (s : State) : State :=
  (popped (popped s)).setPc (wordOf (topByte (popped s)) (topByte s) + plus)

/-- RTS Implied, 0x60: pop `pc` low then high, plus 1 (R223). -/
def execRts (s : State) : Result := .next (pullPc 1 s)

/-- RTI Implied, 0x40: pop P as PLP does, then `pc` low, then high, plus nothing (R224). -/
def execRti (s : State) : Result := .next (pullPc 0 ((popped s).setP (pulledStatus (topByte s))))

/-! ## Branches (R225 to R233) -/

/-- The branch handler: the offset byte is read whether or not the branch is taken; the target is
`pc1 + 1 + sext_16(off)` mod 65536 (R225). -/
def branch (cond : Bool) (off : Byte) (s : State) : Result :=
  withValue (operandByte off s) s fun d => .next (if cond then s.setPc (s.pc + 1 + sext16 d) else s)

/-- BCC Relative, 0x90 (R226). -/
def execBcc (off : Byte) (s : State) : Result := branch (!s.flag .c) off s

/-- BCS Relative, 0xB0 (R227). -/
def execBcs (off : Byte) (s : State) : Result := branch (s.flag .c) off s

/-- BEQ Relative, 0xF0 (R228). -/
def execBeq (off : Byte) (s : State) : Result := branch (s.flag .z) off s

/-- BNE Relative, 0xD0 (R229). -/
def execBne (off : Byte) (s : State) : Result := branch (!s.flag .z) off s

/-- BPL Relative, 0x10 (R230). -/
def execBpl (off : Byte) (s : State) : Result := branch (!s.flag .n) off s

/-- BMI Relative, 0x30 (R231). -/
def execBmi (off : Byte) (s : State) : Result := branch (s.flag .n) off s

/-- BVC Relative, 0x50 (R232). -/
def execBvc (off : Byte) (s : State) : Result := branch (!s.flag .v) off s

/-- BVS Relative, 0x70 (R233). -/
def execBvs (off : Byte) (s : State) : Result := branch (s.flag .v) off s

/-! ## BRK (R235) -/

/-- BRK Implied, 0x00: the halt opcode; nothing but the run state changes (R235, R137). -/
def execBrk (s : State) : Result := .next (s.setRun .halted)

end Sys2Proof.Machine
end

