-- ==== Sys2Proof/Machine/FlagOps.lean ====
section
/-! DEFINITION. Flag instructions and NOP (spec/49_flags_nop.md R250 to R257). -/

namespace Sys2Proof.Machine

/-- Write one flag and nothing else. -/
def writeFlag (f : Flag) (b : Bool) (s : State) : Result := .next (s.setP (setFlag s.p f b))

/-- CLC Implied, 0x18 (R250). -/
def execClc (s : State) : Result := writeFlag .c false s

/-- SEC Implied, 0x38 (R251). -/
def execSec (s : State) : Result := writeFlag .c true s

/-- CLI Implied, 0x58 (R252). -/
def execCli (s : State) : Result := writeFlag .i false s

/-- SEI Implied, 0x78 (R253). -/
def execSei (s : State) : Result := writeFlag .i true s

/-- CLD Implied, 0xD8 (R254). -/
def execCld (s : State) : Result := writeFlag .d false s

/-- SED Implied, 0xF8 (R255). -/
def execSed (s : State) : Result := writeFlag .d true s

/-- CLV Implied, 0xB8 (R256). -/
def execClv (s : State) : Result := writeFlag .v false s

/-- NOP Implied, 0xEA (R257). -/
def execNop (s : State) : Result := .next s

end Sys2Proof.Machine
end

