-- ==== Sys2Proof/Machine/ReadModifyWrite.lean ====
section
/-! DEFINITION. The shared read-modify-write of INC, DEC and the memory forms of the shifts
(spec/20_memory.md R70, spec/40_addressing.md R123, spec/46_shift_rotate.md R204). -/

namespace Sys2Proof.Machine

/-- Resolve once, read, write the new value to the same address, then write P. The read raises before
anything has changed (R204); `status` gives P from the old value. -/
def modify (o : Operand) (value status : Byte → Byte) (s : State) : Result :=
  withValue (resolve o s) s fun ea =>
    withValue (memRead s ea) s fun m =>
      withValue (memWrite s ea (value m)) s fun t => .next (t.setP (status m))

end Sys2Proof.Machine
end

