-- ==== Sys2Proof/Machine/IncDec.lean ====
section
/-! DEFINITION. Increments and decrements (spec/43_incdec.md R170 to R175). -/

namespace Sys2Proof.Machine

/-! ## Registers (R170, R171, R174, R175) -/

/-- X or Y plus 1 mod 256, Z and N of the new value. -/
def increment (r : Reg) (s : State) : Result := .next (setResult r (s.reg r + 1) s)

/-- X or Y minus 1 mod 256, Z and N of the new value. -/
def decrement (r : Reg) (s : State) : Result := .next (setResult r (s.reg r - 1) s)

/-- INX Implied, 0xE8 (R170). -/
def execInx (s : State) : Result := increment .x s

/-- INY Implied, 0xC8 (R171). -/
def execIny (s : State) : Result := increment .y s

/-- DEX Implied, 0xCA (R174). -/
def execDex (s : State) : Result := decrement .x s

/-- DEY Implied, 0x88 (R175). -/
def execDey (s : State) : Result := decrement .y s

/-! ## Memory (R172, R173) -/

/-- INC ZeroPage, 0xE6 (R172). -/
def execIncZp (z : Byte) (s : State) : Result := modify (.zeroPage z) (fun m => m + 1) (fun m => setZN s.p (m + 1)) s

/-- INC ZeroPageX, 0xF6 (R172). -/
def execIncZpX (z : Byte) (s : State) : Result := modify (.zeroPageX z) (fun m => m + 1) (fun m => setZN s.p (m + 1)) s

/-- INC Absolute, 0xEE (R172). -/
def execIncAbs (w : Word) (s : State) : Result := modify (.absolute w) (fun m => m + 1) (fun m => setZN s.p (m + 1)) s

/-- INC AbsoluteX, 0xFE (R172). -/
def execIncAbsX (w : Word) (s : State) : Result := modify (.absoluteX w) (fun m => m + 1) (fun m => setZN s.p (m + 1)) s

/-- DEC ZeroPage, 0xC6 (R173). -/
def execDecZp (z : Byte) (s : State) : Result := modify (.zeroPage z) (fun m => m - 1) (fun m => setZN s.p (m - 1)) s

/-- DEC ZeroPageX, 0xD6 (R173). -/
def execDecZpX (z : Byte) (s : State) : Result := modify (.zeroPageX z) (fun m => m - 1) (fun m => setZN s.p (m - 1)) s

/-- DEC Absolute, 0xCE (R173). -/
def execDecAbs (w : Word) (s : State) : Result := modify (.absolute w) (fun m => m - 1) (fun m => setZN s.p (m - 1)) s

/-- DEC AbsoluteX, 0xDE (R173). -/
def execDecAbsX (w : Word) (s : State) : Result := modify (.absoluteX w) (fun m => m - 1) (fun m => setZN s.p (m - 1)) s

end Sys2Proof.Machine
end

