-- ==== Sys2Proof/Machine/LoadStore.lean ====
section
/-! DEFINITION. Loads, stores and register transfers (spec/42_load_store_transfer.md R150 to R161). -/

namespace Sys2Proof.Machine

/-! ## Loads (R150 to R152) -/

/-- The load handler: the register takes the operand, Z and N follow it. -/
def load (r : Reg) (o : Operand) (s : State) : Result :=
  withValue (readOperand o s) s fun m => .next (setResult r m s)

/-- LDA Immediate, 0xA9 (R150). -/
def execLdaImm (b : Byte) (s : State) : Result := load .a (.immediate b) s

/-- LDA ZeroPage, 0xA5 (R150). -/
def execLdaZp (z : Byte) (s : State) : Result := load .a (.zeroPage z) s

/-- LDA ZeroPageX, 0xB5 (R150). -/
def execLdaZpX (z : Byte) (s : State) : Result := load .a (.zeroPageX z) s

/-- LDA Absolute, 0xAD (R150). -/
def execLdaAbs (w : Word) (s : State) : Result := load .a (.absolute w) s

/-- LDA AbsoluteX, 0xBD (R150). -/
def execLdaAbsX (w : Word) (s : State) : Result := load .a (.absoluteX w) s

/-- LDA AbsoluteY, 0xB9 (R150). -/
def execLdaAbsY (w : Word) (s : State) : Result := load .a (.absoluteY w) s

/-- LDA IndirectX, 0xA1 (R150). -/
def execLdaIndX (z : Byte) (s : State) : Result := load .a (.indirectX z) s

/-- LDA IndirectY, 0xB1 (R150). -/
def execLdaIndY (z : Byte) (s : State) : Result := load .a (.indirectY z) s

/-- LDX Immediate, 0xA2 (R151). -/
def execLdxImm (b : Byte) (s : State) : Result := load .x (.immediate b) s

/-- LDX ZeroPage, 0xA6 (R151). -/
def execLdxZp (z : Byte) (s : State) : Result := load .x (.zeroPage z) s

/-- LDX ZeroPageY, 0xB6 (R151). -/
def execLdxZpY (z : Byte) (s : State) : Result := load .x (.zeroPageY z) s

/-- LDX Absolute, 0xAE (R151). -/
def execLdxAbs (w : Word) (s : State) : Result := load .x (.absolute w) s

/-- LDX AbsoluteY, 0xBE (R151). -/
def execLdxAbsY (w : Word) (s : State) : Result := load .x (.absoluteY w) s

/-- LDY Immediate, 0xA0 (R152). -/
def execLdyImm (b : Byte) (s : State) : Result := load .y (.immediate b) s

/-- LDY ZeroPage, 0xA4 (R152). -/
def execLdyZp (z : Byte) (s : State) : Result := load .y (.zeroPage z) s

/-- LDY ZeroPageX, 0xB4 (R152). -/
def execLdyZpX (z : Byte) (s : State) : Result := load .y (.zeroPageX z) s

/-- LDY Absolute, 0xAC (R152). -/
def execLdyAbs (w : Word) (s : State) : Result := load .y (.absolute w) s

/-- LDY AbsoluteX, 0xBC (R152). -/
def execLdyAbsX (w : Word) (s : State) : Result := load .y (.absoluteX w) s

/-! ## Stores (R153 to R155) -/

/-- The store handler: the byte at the effective address takes the register; no flag changes. -/
def store (r : Reg) (o : Operand) (s : State) : Result :=
  withValue (resolve o s) s fun ea => writeTo ea (s.reg r) s

/-- STA ZeroPage, 0x85 (R153). -/
def execStaZp (z : Byte) (s : State) : Result := store .a (.zeroPage z) s

/-- STA ZeroPageX, 0x95 (R153). -/
def execStaZpX (z : Byte) (s : State) : Result := store .a (.zeroPageX z) s

/-- STA Absolute, 0x8D (R153). -/
def execStaAbs (w : Word) (s : State) : Result := store .a (.absolute w) s

/-- STA AbsoluteX, 0x9D (R153). -/
def execStaAbsX (w : Word) (s : State) : Result := store .a (.absoluteX w) s

/-- STA AbsoluteY, 0x99 (R153). -/
def execStaAbsY (w : Word) (s : State) : Result := store .a (.absoluteY w) s

/-- STA IndirectX, 0x81 (R153). -/
def execStaIndX (z : Byte) (s : State) : Result := store .a (.indirectX z) s

/-- STA IndirectY, 0x91 (R153). -/
def execStaIndY (z : Byte) (s : State) : Result := store .a (.indirectY z) s

/-- STX ZeroPage, 0x86 (R154). -/
def execStxZp (z : Byte) (s : State) : Result := store .x (.zeroPage z) s

/-- STX ZeroPageY, 0x96 (R154). -/
def execStxZpY (z : Byte) (s : State) : Result := store .x (.zeroPageY z) s

/-- STX Absolute, 0x8E (R154). -/
def execStxAbs (w : Word) (s : State) : Result := store .x (.absolute w) s

/-- STY ZeroPage, 0x84 (R155). -/
def execStyZp (z : Byte) (s : State) : Result := store .y (.zeroPage z) s

/-- STY ZeroPageX, 0x94 (R155). -/
def execStyZpX (z : Byte) (s : State) : Result := store .y (.zeroPageX z) s

/-- STY Absolute, 0x8C (R155). -/
def execStyAbs (w : Word) (s : State) : Result := store .y (.absolute w) s

/-! ## Transfers (R156 to R161) -/

/-- The transfer handler: one register is copied to another, Z and N follow the value. -/
def transfer (src dst : Reg) (s : State) : Result := .next (setResult dst (s.reg src) s)

/-- TAX Implied, 0xAA (R156). -/
def execTax (s : State) : Result := transfer .a .x s

/-- TAY Implied, 0xA8 (R157). -/
def execTay (s : State) : Result := transfer .a .y s

/-- TXA Implied, 0x8A (R158). -/
def execTxa (s : State) : Result := transfer .x .a s

/-- TYA Implied, 0x98 (R159). -/
def execTya (s : State) : Result := transfer .y .a s

/-- TSX Implied, 0xBA (R160). -/
def execTsx (s : State) : Result := transfer .s .x s

/-- TXS Implied, 0x9A: the one transfer that writes no flag (R161). -/
def execTxs (s : State) : Result := .next (s.setReg .s (s.reg .x))

end Sys2Proof.Machine
end

