-- ==== Sys2Proof/Machine/Logic.lean ====
section
/-! DEFINITION. Bitwise logic and BIT (spec/44_logic.md R180 to R183). -/

namespace Sys2Proof.Machine

/-- The bitwise handler: A takes `f A m` through the set-accumulator path. -/
def logic (f : Byte → Byte → Byte) (o : Operand) (s : State) : Result :=
  withValue (readOperand o s) s fun m => .next (setResult .a (f s.a m) s)

/-- The BIT handler: only Z, N and V are written (R183). -/
def bitTest (o : Operand) (s : State) : Result :=
  withValue (readOperand o s) s fun m => .next (s.setP (bitStatus s.p s.a m))

/-- AND Immediate, 0x29 (R180). -/
def execAndImm (b : Byte) (s : State) : Result := logic (fun a m => a &&& m) (.immediate b) s

/-- AND ZeroPage, 0x25 (R180). -/
def execAndZp (z : Byte) (s : State) : Result := logic (fun a m => a &&& m) (.zeroPage z) s

/-- AND ZeroPageX, 0x35 (R180). -/
def execAndZpX (z : Byte) (s : State) : Result := logic (fun a m => a &&& m) (.zeroPageX z) s

/-- AND Absolute, 0x2D (R180). -/
def execAndAbs (w : Word) (s : State) : Result := logic (fun a m => a &&& m) (.absolute w) s

/-- AND AbsoluteX, 0x3D (R180). -/
def execAndAbsX (w : Word) (s : State) : Result := logic (fun a m => a &&& m) (.absoluteX w) s

/-- AND AbsoluteY, 0x39 (R180). -/
def execAndAbsY (w : Word) (s : State) : Result := logic (fun a m => a &&& m) (.absoluteY w) s

/-- AND IndirectX, 0x21 (R180). -/
def execAndIndX (z : Byte) (s : State) : Result := logic (fun a m => a &&& m) (.indirectX z) s

/-- AND IndirectY, 0x31 (R180). -/
def execAndIndY (z : Byte) (s : State) : Result := logic (fun a m => a &&& m) (.indirectY z) s

/-- EOR Immediate, 0x49 (R181). -/
def execEorImm (b : Byte) (s : State) : Result := logic (fun a m => a ^^^ m) (.immediate b) s

/-- EOR ZeroPage, 0x45 (R181). -/
def execEorZp (z : Byte) (s : State) : Result := logic (fun a m => a ^^^ m) (.zeroPage z) s

/-- EOR ZeroPageX, 0x55 (R181). -/
def execEorZpX (z : Byte) (s : State) : Result := logic (fun a m => a ^^^ m) (.zeroPageX z) s

/-- EOR Absolute, 0x4D (R181). -/
def execEorAbs (w : Word) (s : State) : Result := logic (fun a m => a ^^^ m) (.absolute w) s

/-- EOR AbsoluteX, 0x5D (R181). -/
def execEorAbsX (w : Word) (s : State) : Result := logic (fun a m => a ^^^ m) (.absoluteX w) s

/-- EOR AbsoluteY, 0x59 (R181). -/
def execEorAbsY (w : Word) (s : State) : Result := logic (fun a m => a ^^^ m) (.absoluteY w) s

/-- EOR IndirectX, 0x41 (R181). -/
def execEorIndX (z : Byte) (s : State) : Result := logic (fun a m => a ^^^ m) (.indirectX z) s

/-- EOR IndirectY, 0x51 (R181). -/
def execEorIndY (z : Byte) (s : State) : Result := logic (fun a m => a ^^^ m) (.indirectY z) s

/-- ORA Immediate, 0x09 (R182). -/
def execOraImm (b : Byte) (s : State) : Result := logic (fun a m => a ||| m) (.immediate b) s

/-- ORA ZeroPage, 0x05 (R182). -/
def execOraZp (z : Byte) (s : State) : Result := logic (fun a m => a ||| m) (.zeroPage z) s

/-- ORA ZeroPageX, 0x15 (R182). -/
def execOraZpX (z : Byte) (s : State) : Result := logic (fun a m => a ||| m) (.zeroPageX z) s

/-- ORA Absolute, 0x0D (R182). -/
def execOraAbs (w : Word) (s : State) : Result := logic (fun a m => a ||| m) (.absolute w) s

/-- ORA AbsoluteX, 0x1D (R182). -/
def execOraAbsX (w : Word) (s : State) : Result := logic (fun a m => a ||| m) (.absoluteX w) s

/-- ORA AbsoluteY, 0x19 (R182). -/
def execOraAbsY (w : Word) (s : State) : Result := logic (fun a m => a ||| m) (.absoluteY w) s

/-- ORA IndirectX, 0x01 (R182). -/
def execOraIndX (z : Byte) (s : State) : Result := logic (fun a m => a ||| m) (.indirectX z) s

/-- ORA IndirectY, 0x11 (R182). -/
def execOraIndY (z : Byte) (s : State) : Result := logic (fun a m => a ||| m) (.indirectY z) s

/-- BIT ZeroPage, 0x24 (R183). -/
def execBitZp (z : Byte) (s : State) : Result := bitTest (.zeroPage z) s

/-- BIT Absolute, 0x2C (R183). -/
def execBitAbs (w : Word) (s : State) : Result := bitTest (.absolute w) s

end Sys2Proof.Machine
end

