-- ==== Sys2Proof/Machine/Shifts.lean ====
section
/-! DEFINITION. Shifts and rotates (spec/46_shift_rotate.md R200 to R204). -/

namespace Sys2Proof.Machine

/-- The accumulator form: operand and destination are A; the resolver is not called, memory is not
touched, and it cannot raise (R204). -/
def shiftAccumulator (k : Shift) (s : State) : Result :=
  .next ((s.setReg .a (shiftResult k s.a (s.flag .c))).setP (shiftStatus k s.p s.a))

/-- A memory form (R204). -/
def shiftMemory (k : Shift) (o : Operand) (s : State) : Result :=
  modify o (fun v => shiftResult k v (s.flag .c)) (fun v => shiftStatus k s.p v) s

/-- ASL Accumulator, 0x0A (R200). -/
def execAslAcc (s : State) : Result := shiftAccumulator .asl s

/-- ASL ZeroPage, 0x06 (R200). -/
def execAslZp (z : Byte) (s : State) : Result := shiftMemory .asl (.zeroPage z) s

/-- ASL ZeroPageX, 0x16 (R200). -/
def execAslZpX (z : Byte) (s : State) : Result := shiftMemory .asl (.zeroPageX z) s

/-- ASL Absolute, 0x0E (R200). -/
def execAslAbs (w : Word) (s : State) : Result := shiftMemory .asl (.absolute w) s

/-- ASL AbsoluteX, 0x1E (R200). -/
def execAslAbsX (w : Word) (s : State) : Result := shiftMemory .asl (.absoluteX w) s

/-- LSR Accumulator, 0x4A (R201). -/
def execLsrAcc (s : State) : Result := shiftAccumulator .lsr s

/-- LSR ZeroPage, 0x46 (R201). -/
def execLsrZp (z : Byte) (s : State) : Result := shiftMemory .lsr (.zeroPage z) s

/-- LSR ZeroPageX, 0x56 (R201). -/
def execLsrZpX (z : Byte) (s : State) : Result := shiftMemory .lsr (.zeroPageX z) s

/-- LSR Absolute, 0x4E (R201). -/
def execLsrAbs (w : Word) (s : State) : Result := shiftMemory .lsr (.absolute w) s

/-- LSR AbsoluteX, 0x5E (R201). -/
def execLsrAbsX (w : Word) (s : State) : Result := shiftMemory .lsr (.absoluteX w) s

/-- ROL Accumulator, 0x2A (R202). -/
def execRolAcc (s : State) : Result := shiftAccumulator .rol s

/-- ROL ZeroPage, 0x26 (R202). -/
def execRolZp (z : Byte) (s : State) : Result := shiftMemory .rol (.zeroPage z) s

/-- ROL ZeroPageX, 0x36 (R202). -/
def execRolZpX (z : Byte) (s : State) : Result := shiftMemory .rol (.zeroPageX z) s

/-- ROL Absolute, 0x2E (R202). -/
def execRolAbs (w : Word) (s : State) : Result := shiftMemory .rol (.absolute w) s

/-- ROL AbsoluteX, 0x3E (R202). -/
def execRolAbsX (w : Word) (s : State) : Result := shiftMemory .rol (.absoluteX w) s

/-- ROR Accumulator, 0x6A (R203). -/
def execRorAcc (s : State) : Result := shiftAccumulator .ror s

/-- ROR ZeroPage, 0x66 (R203). -/
def execRorZp (z : Byte) (s : State) : Result := shiftMemory .ror (.zeroPage z) s

/-- ROR ZeroPageX, 0x76 (R203). -/
def execRorZpX (z : Byte) (s : State) : Result := shiftMemory .ror (.zeroPageX z) s

/-- ROR Absolute, 0x6E (R203). -/
def execRorAbs (w : Word) (s : State) : Result := shiftMemory .ror (.absolute w) s

/-- ROR AbsoluteX, 0x7E (R203). -/
def execRorAbsX (w : Word) (s : State) : Result := shiftMemory .ror (.absoluteX w) s

end Sys2Proof.Machine
end

