-- ==== Sys2Proof/Machine/Stack.lean ====
section
/-! DEFINITION. PHA, PLA, PHP, PLP over the stack primitives (spec/47_stack.md R212 to R215). -/

namespace Sys2Proof.Machine

/-- PHA Implied, 0x48 (R212). -/
def execPha (s : State) : Result := .next (push s.a s)

/-- PLA Implied, 0x68 (R213). -/
def execPla (s : State) : Result := .next (setResult .a (topByte s) (popped s))

/-- PHP Implied, 0x08 (R214). -/
def execPhp (s : State) : Result := .next (push (pushedStatus s.p) s)

/-- PLP Implied, 0x28 (R215). -/
def execPlp (s : State) : Result := .next ((popped s).setP (pulledStatus (topByte s)))

end Sys2Proof.Machine
end

