-- ==== Sys2Proof/Machine/Dispatch.lean ====
section
/-! DEFINITION. Dispatch: one arm per constructor of Instr, each the handler of its row (spec/41_execution_cycle.md
R133). A handler runs at step 6 of R131: it is entered with pc = pc1 and the generic advance follows it. -/

namespace Sys2Proof.Machine

def exec (i : Instr) (s : State) : Host.Outcome State Fault Refusal :=
  match i with
  -- ADC (R190)
  | .adcImm b => Sys2Proof.Machine.execAdcImm b s
  | .adcZp z => Sys2Proof.Machine.execAdcZp z s
  | .adcZpX z => Sys2Proof.Machine.execAdcZpX z s
  | .adcAbs w => Sys2Proof.Machine.execAdcAbs w s
  | .adcAbsX w => Sys2Proof.Machine.execAdcAbsX w s
  | .adcAbsY w => Sys2Proof.Machine.execAdcAbsY w s
  | .adcIndX z => Sys2Proof.Machine.execAdcIndX z s
  | .adcIndY z => Sys2Proof.Machine.execAdcIndY z s
  -- AND (R180)
  | .andImm b => Sys2Proof.Machine.execAndImm b s
  | .andZp z => Sys2Proof.Machine.execAndZp z s
  | .andZpX z => Sys2Proof.Machine.execAndZpX z s
  | .andAbs w => Sys2Proof.Machine.execAndAbs w s
  | .andAbsX w => Sys2Proof.Machine.execAndAbsX w s
  | .andAbsY w => Sys2Proof.Machine.execAndAbsY w s
  | .andIndX z => Sys2Proof.Machine.execAndIndX z s
  | .andIndY z => Sys2Proof.Machine.execAndIndY z s
  -- ASL (R200)
  | .aslAcc => Sys2Proof.Machine.execAslAcc s
  | .aslZp z => Sys2Proof.Machine.execAslZp z s
  | .aslZpX z => Sys2Proof.Machine.execAslZpX z s
  | .aslAbs w => Sys2Proof.Machine.execAslAbs w s
  | .aslAbsX w => Sys2Proof.Machine.execAslAbsX w s
  -- BCC (R226)
  | .bcc off => Sys2Proof.Machine.execBcc off s
  -- BCS (R227)
  | .bcs off => Sys2Proof.Machine.execBcs off s
  -- BEQ (R228)
  | .beq off => Sys2Proof.Machine.execBeq off s
  -- BIT (R183)
  | .bitZp z => Sys2Proof.Machine.execBitZp z s
  | .bitAbs w => Sys2Proof.Machine.execBitAbs w s
  -- BMI (R231)
  | .bmi off => Sys2Proof.Machine.execBmi off s
  -- BNE (R229)
  | .bne off => Sys2Proof.Machine.execBne off s
  -- BPL (R230)
  | .bpl off => Sys2Proof.Machine.execBpl off s
  -- BRK (R235)
  | .brk => Sys2Proof.Machine.execBrk s
  -- BVC (R232)
  | .bvc off => Sys2Proof.Machine.execBvc off s
  -- BVS (R233)
  | .bvs off => Sys2Proof.Machine.execBvs off s
  -- CLC (R250)
  | .clc => Sys2Proof.Machine.execClc s
  -- CLD (R254)
  | .cld => Sys2Proof.Machine.execCld s
  -- CLI (R252)
  | .cli => Sys2Proof.Machine.execCli s
  -- CLV (R256)
  | .clv => Sys2Proof.Machine.execClv s
  -- CMP (R192)
  | .cmpImm b => Sys2Proof.Machine.execCmpImm b s
  | .cmpZp z => Sys2Proof.Machine.execCmpZp z s
  | .cmpZpX z => Sys2Proof.Machine.execCmpZpX z s
  | .cmpAbs w => Sys2Proof.Machine.execCmpAbs w s
  | .cmpAbsX w => Sys2Proof.Machine.execCmpAbsX w s
  | .cmpAbsY w => Sys2Proof.Machine.execCmpAbsY w s
  | .cmpIndX z => Sys2Proof.Machine.execCmpIndX z s
  | .cmpIndY z => Sys2Proof.Machine.execCmpIndY z s
  -- CPX (R193)
  | .cpxImm b => Sys2Proof.Machine.execCpxImm b s
  | .cpxZp z => Sys2Proof.Machine.execCpxZp z s
  | .cpxAbs w => Sys2Proof.Machine.execCpxAbs w s
  -- CPY (R194)
  | .cpyImm b => Sys2Proof.Machine.execCpyImm b s
  | .cpyZp z => Sys2Proof.Machine.execCpyZp z s
  | .cpyAbs w => Sys2Proof.Machine.execCpyAbs w s
  -- DEC (R173)
  | .decZp z => Sys2Proof.Machine.execDecZp z s
  | .decZpX z => Sys2Proof.Machine.execDecZpX z s
  | .decAbs w => Sys2Proof.Machine.execDecAbs w s
  | .decAbsX w => Sys2Proof.Machine.execDecAbsX w s
  -- DEX (R174)
  | .dex => Sys2Proof.Machine.execDex s
  -- DEY (R175)
  | .dey => Sys2Proof.Machine.execDey s
  -- EOR (R181)
  | .eorImm b => Sys2Proof.Machine.execEorImm b s
  | .eorZp z => Sys2Proof.Machine.execEorZp z s
  | .eorZpX z => Sys2Proof.Machine.execEorZpX z s
  | .eorAbs w => Sys2Proof.Machine.execEorAbs w s
  | .eorAbsX w => Sys2Proof.Machine.execEorAbsX w s
  | .eorAbsY w => Sys2Proof.Machine.execEorAbsY w s
  | .eorIndX z => Sys2Proof.Machine.execEorIndX z s
  | .eorIndY z => Sys2Proof.Machine.execEorIndY z s
  -- INC (R172)
  | .incZp z => Sys2Proof.Machine.execIncZp z s
  | .incZpX z => Sys2Proof.Machine.execIncZpX z s
  | .incAbs w => Sys2Proof.Machine.execIncAbs w s
  | .incAbsX w => Sys2Proof.Machine.execIncAbsX w s
  -- INX (R170)
  | .inx => Sys2Proof.Machine.execInx s
  -- INY (R171)
  | .iny => Sys2Proof.Machine.execIny s
  -- JMP (R220)
  | .jmpAbs w => Sys2Proof.Machine.execJmpAbs w s
  | .jmpInd w => Sys2Proof.Machine.execJmpInd w s
  -- JSR (R222)
  | .jsr w => Sys2Proof.Machine.execJsr w s
  -- LDA (R150)
  | .ldaImm b => Sys2Proof.Machine.execLdaImm b s
  | .ldaZp z => Sys2Proof.Machine.execLdaZp z s
  | .ldaZpX z => Sys2Proof.Machine.execLdaZpX z s
  | .ldaAbs w => Sys2Proof.Machine.execLdaAbs w s
  | .ldaAbsX w => Sys2Proof.Machine.execLdaAbsX w s
  | .ldaAbsY w => Sys2Proof.Machine.execLdaAbsY w s
  | .ldaIndX z => Sys2Proof.Machine.execLdaIndX z s
  | .ldaIndY z => Sys2Proof.Machine.execLdaIndY z s
  -- LDX (R151)
  | .ldxImm b => Sys2Proof.Machine.execLdxImm b s
  | .ldxZp z => Sys2Proof.Machine.execLdxZp z s
  | .ldxZpY z => Sys2Proof.Machine.execLdxZpY z s
  | .ldxAbs w => Sys2Proof.Machine.execLdxAbs w s
  | .ldxAbsY w => Sys2Proof.Machine.execLdxAbsY w s
  -- LDY (R152)
  | .ldyImm b => Sys2Proof.Machine.execLdyImm b s
  | .ldyZp z => Sys2Proof.Machine.execLdyZp z s
  | .ldyZpX z => Sys2Proof.Machine.execLdyZpX z s
  | .ldyAbs w => Sys2Proof.Machine.execLdyAbs w s
  | .ldyAbsX w => Sys2Proof.Machine.execLdyAbsX w s
  -- LSR (R201)
  | .lsrAcc => Sys2Proof.Machine.execLsrAcc s
  | .lsrZp z => Sys2Proof.Machine.execLsrZp z s
  | .lsrZpX z => Sys2Proof.Machine.execLsrZpX z s
  | .lsrAbs w => Sys2Proof.Machine.execLsrAbs w s
  | .lsrAbsX w => Sys2Proof.Machine.execLsrAbsX w s
  -- NOP (R257)
  | .nop => Sys2Proof.Machine.execNop s
  -- ORA (R182)
  | .oraImm b => Sys2Proof.Machine.execOraImm b s
  | .oraZp z => Sys2Proof.Machine.execOraZp z s
  | .oraZpX z => Sys2Proof.Machine.execOraZpX z s
  | .oraAbs w => Sys2Proof.Machine.execOraAbs w s
  | .oraAbsX w => Sys2Proof.Machine.execOraAbsX w s
  | .oraAbsY w => Sys2Proof.Machine.execOraAbsY w s
  | .oraIndX z => Sys2Proof.Machine.execOraIndX z s
  | .oraIndY z => Sys2Proof.Machine.execOraIndY z s
  -- PHA (R212)
  | .pha => Sys2Proof.Machine.execPha s
  -- PHP (R214)
  | .php => Sys2Proof.Machine.execPhp s
  -- PLA (R213)
  | .pla => Sys2Proof.Machine.execPla s
  -- PLP (R215)
  | .plp => Sys2Proof.Machine.execPlp s
  -- ROL (R202)
  | .rolAcc => Sys2Proof.Machine.execRolAcc s
  | .rolZp z => Sys2Proof.Machine.execRolZp z s
  | .rolZpX z => Sys2Proof.Machine.execRolZpX z s
  | .rolAbs w => Sys2Proof.Machine.execRolAbs w s
  | .rolAbsX w => Sys2Proof.Machine.execRolAbsX w s
  -- ROR (R203)
  | .rorAcc => Sys2Proof.Machine.execRorAcc s
  | .rorZp z => Sys2Proof.Machine.execRorZp z s
  | .rorZpX z => Sys2Proof.Machine.execRorZpX z s
  | .rorAbs w => Sys2Proof.Machine.execRorAbs w s
  | .rorAbsX w => Sys2Proof.Machine.execRorAbsX w s
  -- RTI (R224)
  | .rti => Sys2Proof.Machine.execRti s
  -- RTS (R223)
  | .rts => Sys2Proof.Machine.execRts s
  -- SBC (R191)
  | .sbcImm b => Sys2Proof.Machine.execSbcImm b s
  | .sbcZp z => Sys2Proof.Machine.execSbcZp z s
  | .sbcZpX z => Sys2Proof.Machine.execSbcZpX z s
  | .sbcAbs w => Sys2Proof.Machine.execSbcAbs w s
  | .sbcAbsX w => Sys2Proof.Machine.execSbcAbsX w s
  | .sbcAbsY w => Sys2Proof.Machine.execSbcAbsY w s
  | .sbcIndX z => Sys2Proof.Machine.execSbcIndX z s
  | .sbcIndY z => Sys2Proof.Machine.execSbcIndY z s
  -- SEC (R251)
  | .sec => Sys2Proof.Machine.execSec s
  -- SED (R255)
  | .sed => Sys2Proof.Machine.execSed s
  -- SEI (R253)
  | .sei => Sys2Proof.Machine.execSei s
  -- STA (R153)
  | .staZp z => Sys2Proof.Machine.execStaZp z s
  | .staZpX z => Sys2Proof.Machine.execStaZpX z s
  | .staAbs w => Sys2Proof.Machine.execStaAbs w s
  | .staAbsX w => Sys2Proof.Machine.execStaAbsX w s
  | .staAbsY w => Sys2Proof.Machine.execStaAbsY w s
  | .staIndX z => Sys2Proof.Machine.execStaIndX z s
  | .staIndY z => Sys2Proof.Machine.execStaIndY z s
  -- STX (R154)
  | .stxZp z => Sys2Proof.Machine.execStxZp z s
  | .stxZpY z => Sys2Proof.Machine.execStxZpY z s
  | .stxAbs w => Sys2Proof.Machine.execStxAbs w s
  -- STY (R155)
  | .styZp z => Sys2Proof.Machine.execStyZp z s
  | .styZpX z => Sys2Proof.Machine.execStyZpX z s
  | .styAbs w => Sys2Proof.Machine.execStyAbs w s
  -- TAX (R156)
  | .tax => Sys2Proof.Machine.execTax s
  -- TAY (R157)
  | .tay => Sys2Proof.Machine.execTay s
  -- TSX (R160)
  | .tsx => Sys2Proof.Machine.execTsx s
  -- TXA (R158)
  | .txa => Sys2Proof.Machine.execTxa s
  -- TXS (R161)
  | .txs => Sys2Proof.Machine.execTxs s
  -- TYA (R159)
  | .tya => Sys2Proof.Machine.execTya s

end Sys2Proof.Machine
end

