-- ==== Sys2Proof/Machine/Fetch.lean ====
section
/-! DEFINITION. The work of the step around a handler (spec/41_execution_cycle.md R131): the fetch of the
opcode, the lookup, the instruction's bytes, and the generic advance (R134). -/

namespace Sys2Proof.Machine

/-- What steps 1 to 3 of R131 come to. -/
inductive Fetched where
  /-- A fatal condition ended the step, in this state. -/
  | raised (t : State)
  /-- The instruction, its descriptor's length, and the state its handler is entered with, where
  `pc = pc1`. -/
  | decoded (i : Instr) (length : Nat) (t : State)

/-- Steps 1 to 3 of R131: the opcode is read at `pc0` (a fault leaves `pc` there); `pc` goes to `pc1`; a
byte with no row is UnrecognizedOpcode, before any operand byte is looked at (R271, R274). The operand
bytes that the instruction carries are those memory holds after the opcode; where such an address has no
byte the value is of no effect, since the handler's own read of it raises first (log entry 5). -/
def fetch (s : State) : Fetched :=
  match memRead s s.pc with
  | .error c => .raised (raise c s)
  | .ok op =>
    match opRow? op with
    | none => .raised (raise (.unrecognizedOpcode op) (s.setPc (s.pc + 1)))
    | some row =>
      .decoded (row.build.apply (s.mem.peek (s.pc + 1).toNat) (s.mem.peek (s.pc + 2).toNat))
        row.desc.length (s.setPc (s.pc + 1))

/-- The generic advance: if the handler left `pc` equal to `pc1`, it goes past the operand bytes. The
test compares values (R134, R135). A step that halted or raised ended before it (R137, R276). -/
def advanced (pc1 : Word) (length : Nat) (t : State) : State :=
  if t.run = .running ∧ t.pc = pc1 then t.setPc (pc1 + BitVec.ofNat 16 (length - 1)) else t

/-- The generic advance on what a handler answered. -/
def advance (pc1 : Word) (length : Nat) : Result → Result
  | .next t => .next (advanced pc1 length t)
  | .fault f => .fault f
  | .refused r => .refused r

/-- The state with the bytes of an instruction written where the next step fetches them, and running.
Bytes of the word above `nbits` are 0; three bytes are written, the longest instruction, each where its
address exists. -/
def placeWord (s : State) (nbits w : Nat) : State :=
  let v := w % 2 ^ nbits
  let put (m : Memory) (a : Word) (b : Nat) : Memory :=
    if present a then m.poke a.toNat (BitVec.ofNat 8 b) else m
  (s.setMem (put (put (put s.mem s.pc v) (s.pc + 1) (v / 256)) (s.pc + 2) (v / 65536))).setRun .running

end Sys2Proof.Machine
end

