-- ==== Sys2Proof/Machine/Step.lean ====
section
/-! DEFINITION. One step (spec/41_execution_cycle.md R130, R131): the fetch, the handler, the generic
advance, in a Running machine; no step in another. -/

namespace Sys2Proof.Machine

/-- One step (R131). The trace tap of its step 4 changes nothing and is `traceEvent` in
Machine/Trace.lean; the halt of its step 5 is the handler of BRK. -/
def step (s : State) : Host.Outcome State Fault Refusal :=
  match s.run with
  | .halted => .fault .halted
  | .faulted c => .fault (.faulted c)
  | .running =>
    match fetch s with
    | .raised t => .next t
    | .decoded i length t => advance t.pc length (exec i t)

/-- The state with one instruction stored where the next step fetches it, so that the next step runs it
(log entry 8). -/
def State.withFetchWord (s : State) (nbits w : Nat) : State := placeWord s nbits w

end Sys2Proof.Machine
end

