-- ==== Sys2Proof/Machine/Harness.lean ====
section
/-! DEFINITION. What the host does to the machine while the core is not stepping
(spec/70_reset_and_hazards.md R305 to R310): load, launch, preset. Reset is `State.cpuReset`, byte and word
writes are `memWrite` and `memWrite16`, in Machine/Ops.lean. No step calls anything here. -/

namespace Sys2Proof.Machine

/-- The bytes of a program copied to ascending addresses from `at_` on (R305). -/
def copyBytes : List Byte → Nat → Memory → Memory
  | [], _, m => m
  | b :: bs, at_, m => copyBytes bs (at_ + 1) (m.poke at_ b)

/-- `load`: copy to LOAD_BASE, then write LOAD_BASE into the reset vector, low byte first, so that the
vector wins where the two overlap (R305, R307). It is refused for a longer program (R306). -/
def hostLoad (prog : List Byte) (m : Memory) : Option Memory :=
  if prog.length ≤ Config.loadMax then
    some (((copyBytes prog Config.loadBase.toNat m).poke Config.resetVector.toNat
      (lowByte Config.loadBase)).poke (Config.resetVector.toNat + 1) (highByte Config.loadBase))
  else none

/-- The launch state: memory INIT_MEM (any memory) with the program loaded, then reset (R309). Reset
overwrites every other field, so the state it starts from does not matter. -/
def launch (initMem : Memory) (prog : List Byte) : Option State :=
  (hostLoad prog initMem).map fun m => (State.reset.setMem m).cpuReset

/-- A host preset: the registers it overwrites (R310). -/
structure Preset where
  a  : Option Byte := none
  x  : Option Byte := none
  y  : Option Byte := none
  sp : Option Byte := none
  p  : Option Byte := none
  pc : Option Word := none
  deriving DecidableEq, Repr

/-- The state after a preset, made after reset and before the first step (R310). -/
def Preset.apply (r : Preset) (s : State) : State :=
  { s with
    a := r.a.getD s.a
    x := r.x.getD s.x
    y := r.y.getD s.y
    sp := r.sp.getD s.sp
    p := r.p.getD s.p
    pc := r.pc.getD s.pc }

end Sys2Proof.Machine
end

