-- ==== Sys2Proof/Machine/Trace.lean ====
section
/-! DEFINITION. The outputs of the block: the trace tap (spec/41_execution_cycle.md R136) and the ports
`halted`, `fault`, `fault_code` (spec/00_scope.md R6; spec/60_exceptions.md R270). They are functions of
the state and change nothing. -/

namespace Sys2Proof.Machine

/-- What the trace tap carries: `pc` (which is `pc1`), the opcode, A, X, Y, S, P (R6, R131 step 4). -/
structure TraceEvent where
  pc     : Word
  opcode : Byte
  a      : Byte
  x      : Byte
  y      : Byte
  sp     : Byte
  p      : Byte
  deriving DecidableEq, Repr

/-- The event that the step from a state emits: one after a successful lookup, before the handler, for
the halt opcode too; none for a step that raises at the fetch or the lookup, and none where there is no
step (R136). -/
def traceEvent (s : State) : Option TraceEvent :=
  match s.run with
  | .halted => none
  | .faulted _ => none
  | .running =>
    match fetch s with
    | .raised _ => none
    | .decoded i _ t => some ⟨t.pc, i.opcode, t.a, t.x, t.y, t.sp, t.p⟩

/-- The numeric code of a fatal condition (R270). -/
def FatalCondition.code : FatalCondition → Nat
  | .unrecognizedOpcode _ => 1
  | .unsupportedAddressingMode => 2
  | .outOfRangeAddress _ => 3

/-- The `halted` port (R6). -/
def haltedPort (s : State) : Bool := s.run == .halted

/-- The `fault_code` port: the code, and 0 where there is no fault (R6, R270). -/
def faultCode (s : State) : Nat :=
  match s.run with
  | .running => 0
  | .halted => 0
  | .faulted c => c.code

/-- The `fault` port (R6). -/
def faultPort (s : State) : Bool := faultCode s != 0

end Sys2Proof.Machine
end

