-- ==== Sys2Proof/Safety.lean ====
section
/-! DEFINITION. The terms that claims about this machine use: what a good end of a run is, the invariants,
what a handler may write, and what "unchanged" means. -/

namespace Sys2Proof.Machine

/-! ## Runs (spec/41_execution_cycle.md R130, R138) -/

/-- `n` steps from `s` end Halted in `t`: the only good end of a run (R130). -/
def HaltsIn (n : Nat) (s t : State) : Prop := Sys2Proof.core.run n s = .next t ∧ t.run = .halted

/-- No number of steps from `s` ends Faulted: something to prove of a program, not to assume (R130). -/
def NeverFaults (s : State) : Prop :=
  ∀ n t c, Sys2Proof.core.run n s = .next t → t.run ≠ .faulted c

/-! ## Invariants -/

/-- The state is in canonical form: its memory is. -/
def State.wf (s : State) : Bool := s.mem.wf

/-- Break is 0 and Break2 is 1 (10_state.md R38). -/
def StatusInv (s : State) : Prop := s.flag .b = false ∧ s.flag .b2 = true

/-- The run states of R270 that a step can come to: a fault is of a byte with no row, or of the address
0xFFFF; UnsupportedAddressingMode is none of them (R272). -/
def RunInv (s : State) : Prop :=
  s.run = .running ∨ s.run = .halted ∨ (∃ op, opRow? op = none ∧ s.run = .faulted (.unrecognizedOpcode op))
    ∨ s.run = .faulted (.outOfRangeAddress 0xFFFF#16)

/-! ## What is unchanged -/

/-- Every flag not in the list is the same in both states. -/
def FlagsKept (written : List Flag) (s t : State) : Prop := ∀ f, f ∉ written → t.flag f = s.flag f

/-- Z and N are those of the byte `v` (10_state.md R33). -/
def ZNOf (v : Byte) (t : State) : Prop := t.flag .z = (v == 0) ∧ t.flag .n = v.getLsbD 7

/-- From `s` to `t` the byte at `ea` became `v`, and every other address reads as before. -/
def StoredOnly (ea : Word) (v : Byte) (s t : State) : Prop :=
  memRead t ea = .ok v ∧ ∀ a, a ≠ ea → memRead t a = memRead s a

/-- The handler of `i` in `s` answers a next state that is `u` but for P; in P, Z and N are those of the
byte `v` and the other six flags are as in `s`. -/
def AnswersWithZN (i : Instr) (s u : State) (v : Byte) : Prop :=
  ∃ t, exec i s = .next t ∧ t = { u with p := t.p } ∧ ZNOf v t ∧ FlagsKept [.z, .n] s t

/-- An operand byte of the instruction lies at 0xFFFF, its handler being entered in `s`. -/
def OperandByteMissing (i : Instr) (s : State) : Prop :=
  ∃ k, k < i.operand.bytes.length ∧ s.pc + BitVec.ofNat 16 k = 0xFFFF#16

/-- An operand byte lies at 0xFFFF, or the effective address is 0xFFFF: where an instruction with an
addressing mode raises OutOfRangeAddress (60_exceptions.md R273). That 0xFFFF is the one address with no
byte is the spec's own decision D1 (R51). -/
def OperandFaults (i : Instr) (s : State) : Prop :=
  OperandByteMissing i s ∨ resolve i.operand s = .ok 0xFFFF#16

/-- The handler of `i` in `s` takes OutOfRangeAddress of 0xFFFF with nothing else changed (R276). -/
def TakesOutOfRange (i : Instr) (s : State) : Prop :=
  exec i s = .next { s with run := .faulted (.outOfRangeAddress 0xFFFF#16) }

/-- The bytes lie in memory from address `a` on, each at an address that exists. -/
def BytesAt (s : State) (a : Word) (bs : List Byte) : Prop :=
  ∀ k (h : k < bs.length), memRead s (a + BitVec.ofNat 16 k) = .ok bs[k]

/-! ## Encodings and writers, as the spec lists them -/

/-- The rows of a mnemonic are exactly these opcode bytes with these forms: every instruction of the
mnemonic has one of them, and the table gives each of them the mnemonic and the form. -/
def HasEncodings (m : Mnemonic) (l : List (Byte × Form)) : Prop :=
  (∀ i : Instr, i.mnemonic = m → (i.opcode, i.form) ∈ l) ∧
    ∀ e ∈ l, (opRow? e.1).map (fun row => (row.desc.mnemonic, row.desc.form)) = some (m, e.2)

/-- The instructions that write a flag (10_state.md R29 to R37). -/
def flagWriters : Flag → List Mnemonic
  | .c => [.adc, .sbc, .cmp, .cpx, .cpy, .asl, .rol, .lsr, .ror, .clc, .sec, .plp, .rti]
  | .z => [.lda, .ldx, .ldy, .tax, .tay, .txa, .tya, .tsx, .inx, .iny, .dex, .dey, .inc, .dec, .and, .eor,
      .ora, .adc, .sbc, .asl, .lsr, .rol, .ror, .pla, .cmp, .cpx, .cpy, .bit, .plp, .rti]
  | .i => [.sei, .cli, .plp, .rti]
  | .d => [.sed, .cld, .plp, .rti]
  | .b => [.plp, .rti]
  | .b2 => [.plp, .rti]
  | .v => [.adc, .sbc, .bit, .clv, .plp, .rti]
  | .n => [.lda, .ldx, .ldy, .tax, .tay, .txa, .tya, .tsx, .inx, .iny, .dex, .dey, .inc, .dec, .and, .eor,
      .ora, .adc, .sbc, .asl, .lsr, .rol, .ror, .pla, .cmp, .cpx, .cpy, .bit, .plp, .rti]

/-- Whether an instruction writes a register (10_state.md R21 to R24). -/
def writesReg (i : Instr) : Reg → Bool
  | .a => [.lda, .txa, .tya, .pla, .and, .eor, .ora, .adc, .sbc].contains i.mnemonic
      || (i.mnemonic.isShift && i.form == .accumulator)
  | .x => [.ldx, .tax, .tsx, .inx, .dex].contains i.mnemonic
  | .y => [.ldy, .tay, .iny, .dey].contains i.mnemonic
  | .s => [.txs, .pha, .php, .jsr, .pla, .plp, .rts, .rti].contains i.mnemonic

/-- Whether an instruction writes memory (20_memory.md R59). -/
def writesMemory (i : Instr) : Bool :=
  [.sta, .stx, .sty, .inc, .dec, .pha, .php, .jsr].contains i.mnemonic
    || (i.mnemonic.isShift && !(i.form == .accumulator))

/-- Whether an instruction's handler writes `pc` (48_control_flow.md). -/
def writesPc (i : Instr) : Bool :=
  [.jmp, .jsr, .rts, .rti].contains i.mnemonic || i.mnemonic.isBranch

end Sys2Proof.Machine
end

