-- ==== Sys2Proof/Certificates/Slice0/Obligations.lean ====
section
/-! DEFINITION. The statements for the provers, one definition each; OBLIGATIONS.json lists them. -/

open Sys2Proof Sys2Proof.Machine

/-- Words written out from the table decode to the instructions they stand for, and others are
rejected by name. (30_encoding.md, opcode_table.json) -/
def Obligations.SampleWordsDecode : Prop :=
  decode [0xA9, 0x05, 0x00] = .ok (.ldaImm 0x05, [0x00]) ∧ decode [0x00] = .ok (.brk, []) ∧
  decode [0xAA] = .ok (.tax, []) ∧ decode [0xE8] = .ok (.inx, []) ∧
  decode [0xBD, 0x34, 0x12] = .ok (.ldaAbsX 0x1234, []) ∧ decode [0x96, 0xF0] = .ok (.stxZpY 0xF0, []) ∧
  decode [0x91, 0x40] = .ok (.staIndY 0x40, []) ∧ decode [0x6C, 0xFF, 0x30] = .ok (.jmpInd 0x30FF, []) ∧
  decode [0x20, 0x10, 0x80] = .ok (.jsr 0x8010, []) ∧ decode [0xD0, 0xFB] = .ok (.bne 0xFB, []) ∧
  decode [0x3E, 0x00, 0x03] = .ok (.rolAbsX 0x0300, []) ∧ decode [0x69, 0x01] = .ok (.adcImm 0x01, []) ∧
  decode [0x2C, 0x00, 0x03] = .ok (.bitAbs 0x0300, []) ∧ decode [0x08] = .ok (.php, []) ∧
  decode [0xF8] = .ok (.sed, []) ∧ decode [0x02] = .error (.unrecognizedOpcode 0x02) ∧
  decode [0xA9] = .error (.missingOperand 0xA9) ∧ decode [] = .error .empty

/-- For every instruction, decoding its encoding gives it back, and leaves the bytes after it.
(30_encoding.md, opcode_table.json) -/
def Obligations.DecodeOfEncodeIsIdentity : Prop :=
  ∀ (i : Instr) (rest : List Byte), decode (encode i ++ rest) = .ok (i, rest)

/-- Whatever bytes decode to an instruction are its encoding and the bytes after it. (30_encoding.md,
opcode_table.json) -/
def Obligations.EncodeOfDecodeIsIdentity : Prop :=
  ∀ (bs : List Byte) (i : Instr) (rest : List Byte), decode bs = .ok (i, rest) → bs = encode i ++ rest

/-- The opcode table has 151 rows, no opcode twice, every row well formed, and the 105 other bytes are
those the spec lists. (30_encoding.md, 92_eei_decisions.md D3) The table and the list of bytes outside
it are the spec's own (R86, R88; decision D3). -/
def Obligations.OpcodeTableIsWellFormed : Prop :=
  let illegal : List Byte := [
    0x02, 0x03, 0x04, 0x07, 0x0B, 0x0C, 0x0F, 0x12, 0x13, 0x14, 0x17, 0x1A, 0x1B, 0x1C, 0x1F, 0x22,
    0x23, 0x27, 0x2B, 0x2F, 0x32, 0x33, 0x34, 0x37, 0x3A, 0x3B, 0x3C, 0x3F, 0x42, 0x43, 0x44, 0x47,
    0x4B, 0x4F, 0x52, 0x53, 0x54, 0x57, 0x5A, 0x5B, 0x5C, 0x5F, 0x62, 0x63, 0x64, 0x67, 0x6B, 0x6F,
    0x72, 0x73, 0x74, 0x77, 0x7A, 0x7B, 0x7C, 0x7F, 0x80, 0x82, 0x83, 0x87, 0x89, 0x8B, 0x8F, 0x92,
    0x93, 0x97, 0x9B, 0x9C, 0x9E, 0x9F, 0xA3, 0xA7, 0xAB, 0xAF, 0xB2, 0xB3, 0xB7, 0xBB, 0xBF, 0xC2,
    0xC3, 0xC7, 0xCB, 0xCF, 0xD2, 0xD3, 0xD4, 0xD7, 0xDA, 0xDB, 0xDC, 0xDF, 0xE2, 0xE3, 0xE7, 0xEB,
    0xEF, 0xF2, 0xF3, 0xF4, 0xF7, 0xFA, 0xFB, 0xFC, 0xFF]
  opTable.length = 151 ∧ (opTable.map OpRow.opcode).Nodup ∧ (∀ row ∈ opTable, row.desc.wf = true) ∧
    illegal.length = 105 ∧ ∀ op, opRow? op = none ↔ op ∈ illegal

/-- The length of an instruction is told from its opcode byte alone, and is 1, 2 or 3 as its form
says. (30_encoding.md, 40_addressing.md) That the length is a function of the form is marked derived
in R82. -/
def Obligations.LengthIsToldFromTheOpcode : Prop :=
  ∀ i : Instr, (opRow? i.opcode).map (fun row => row.desc.length) = some (encode i).length ∧
    (i.form ∈ [.implied, .accumulator] → (encode i).length = 1) ∧
    (i.form ∈ [.immediate, .zeroPage, .zeroPageX, .zeroPageY, .indirectX, .indirectY, .relative] →
      (encode i).length = 2) ∧
    (i.form ∈ [.absolute, .absoluteX, .absoluteY, .absoluteJump, .indirectJump] → (encode i).length = 3) ∧
    ∀ j : Instr, j.opcode = i.opcode → (encode j).length = (encode i).length

/-- A step runs exec of the instruction that the bytes at pc decode to, with pc moved past the opcode,
and then the generic advance. (R134) -/
def Obligations.StepRunsDecodedInstruction : Prop :=
  ∀ (s : State) (bs : List Byte) (i : Instr), s.run = .running → BytesAt s s.pc bs →
    decode bs = .ok (i, []) → i.wf = true →
    ∃ t, exec i { s with pc := s.pc + 1 } = .next t ∧
      step s = .next (if t.run = .running ∧ t.pc = s.pc + 1
        then { t with pc := s.pc + BitVec.ofNat 16 (encode i).length } else t)

/-- An opcode byte with no row raises UnrecognizedOpcode: pc is pc0 + 1, nothing else has changed, and
the trace tap has not fired. (R271) -/
def Obligations.IllegalOpcodeBytesFault : Prop :=
  ∀ (s : State) (op : Byte), s.run = .running → memRead s s.pc = .ok op → opRow? op = none →
    step s = .next { s with pc := s.pc + 1, run := .faulted (.unrecognizedOpcode op) } ∧
      traceEvent s = none ∧
      step { s with pc := s.pc + 1, run := .faulted (.unrecognizedOpcode op) }
        = .fault (.faulted (.unrecognizedOpcode op))

/-- A step at pc = 0xFFFF raises OutOfRangeAddress with nothing else changed, and the trace tap does
not fire. (41_execution_cycle.md, 60_exceptions.md, 92_eei_decisions.md D1, D16) That 0xFFFF has no
byte is the spec's decision D1; the state after a fatal condition its decision D16. -/
def Obligations.OpcodeFetchAtMissingByteFaults : Prop :=
  ∀ s : State, s.run = .running → s.pc = 0xFFFF#16 →
    step s = .next { s with run := .faulted (.outOfRangeAddress 0xFFFF#16) } ∧ traceEvent s = none

/-- A Halted or Faulted machine takes no step, and reset makes it Running with memory unchanged.
(41_execution_cycle.md, 60_exceptions.md, 70_reset_and_hazards.md) That such a machine's step answers
a Fault is the model's choice (log entry 3). -/
def Obligations.HaltedAndFaultedMachinesTakeNoStep : Prop :=
  ∀ s : State,
    (s.run = .halted → step s = .fault .halted ∧ s.cpuReset.run = .running ∧ s.cpuReset.mem = s.mem) ∧
    ∀ c, s.run = .faulted c →
      step s = .fault (.faulted c) ∧ s.cpuReset.run = .running ∧ s.cpuReset.mem = s.mem

/-- Every instruction answers a next state from every state; it keeps Running, halts if it is BRK, or
raises OutOfRangeAddress of 0xFFFF. (41_execution_cycle.md, 60_exceptions.md) -/
def Obligations.EveryHandlerAnswersANextState : Prop :=
  ∀ (i : Instr) (s : State), ∃ t, exec i s = .next t ∧
    (t.run = s.run ∨ (i = .brk ∧ t.run = .halted) ∨ t.run = .faulted (.outOfRangeAddress 0xFFFF#16))

/-- A Running machine always takes a step, to Running, Halted, or one of the two fatal conditions a
program can meet. (41_execution_cycle.md, 60_exceptions.md) -/
def Obligations.RunningStepOutcomes : Prop :=
  ∀ s : State, s.run = .running → ∃ t, step s = .next t ∧ RunInv t

/-- BRK halts: the state is as before the step with pc = pc0 + 1, and no generic advance is applied.
(41_execution_cycle.md, 48_control_flow.md, 92_eei_decisions.md D7) R137 and R235, the spec's own
decision D7. -/
def Obligations.BrkHalts : Prop :=
  (HasEncodings .brk [(0x00, .implied)]) ∧
  ∀ s : State, exec .brk s = .next { s with run := .halted } ∧
    (s.run = .running → memRead s s.pc = .ok 0x00 →
      step s = .next { s with pc := s.pc + 1, run := .halted })

/-- A branch, jump or call whose target is the address after its opcode byte comes to the next
instruction. (41_execution_cycle.md, 70_reset_and_hazards.md, 92_eei_decisions.md D5) R135 and R316
are the spec's own inferences from R134. -/
def Obligations.TransferToPc1IsAdvanced : Prop :=
  ∀ s : State, s.run = .running →
    (∀ op ∈ [0x90, 0xB0, 0xF0, 0xD0, 0x10, 0x30, 0x50, 0x70], BytesAt s s.pc [op, 0xFF] →
      step s = .next { s with pc := s.pc + 2 }) ∧
    (BytesAt s s.pc [0x4C, lowByte (s.pc + 1), highByte (s.pc + 1)] →
      step s = .next { s with pc := s.pc + 3 }) ∧
    (∀ p : Word, BytesAt s s.pc [0x6C, lowByte p, highByte p] → memRead s p = .ok (lowByte (s.pc + 1)) →
      memRead s (if lowByte p = 0xFF then p &&& 0xFF00 else p + 1) = .ok (highByte (s.pc + 1)) →
      step s = .next { s with pc := s.pc + 3 }) ∧
    (BytesAt s s.pc [0x20, lowByte (s.pc + 1), highByte (s.pc + 1)] →
      (∀ a ∈ [s.pc + 1, s.pc + 2], a ≠ stackAddress s ∧ a ≠ stackAddress { s with sp := s.sp - 1 }) →
      ∃ t, step s = .next t ∧ t = { s with pc := s.pc + 3, sp := s.sp - 2, mem := t.mem } ∧
        memRead t (stackAddress s) = .ok (highByte (s.pc + 2)) ∧
        memRead t (stackAddress { s with sp := s.sp - 1 }) = .ok (lowByte (s.pc + 2)) ∧
        ∀ a, a ≠ stackAddress s → a ≠ stackAddress { s with sp := s.sp - 1 } → memRead t a = memRead s a)

/-- The trace tap carries pc1, the opcode and the registers before the handler, and fires only after a
successful lookup. (41_execution_cycle.md, 00_scope.md, 92_eei_decisions.md D17) That the tap changes
nothing is the spec's decision D17; here it is a function of the state. -/
def Obligations.TraceTapFiresOnceAfterLookup : Prop :=
  ∀ s : State,
    (∀ op, s.run = .running → memRead s s.pc = .ok op → opRow? op ≠ none →
      traceEvent s = some ⟨s.pc + 1, op, s.a, s.x, s.y, s.sp, s.p⟩) ∧
    (s.run ≠ .running → traceEvent s = none) ∧
    (s.pc = 0xFFFF#16 → traceEvent s = none) ∧
    ∀ op, memRead s s.pc = .ok op → opRow? op = none → traceEvent s = none

/-- Every step keeps Break 0 and Break2 1. (10_state.md, 47_stack.md) R38 is the spec's own inference;
this is its proof. -/
def Obligations.StepKeepsStatusInvariant : Prop :=
  ∀ s t : State, StatusInv s → step s = .next t → StatusInv t

/-- Every step keeps the memory in its canonical form. (20_memory.md, 10_state.md) The canonical form
is the model's own representation (log entry 1). -/
def Obligations.StepKeepsMemoryForm : Prop :=
  ∀ s t : State, s.wf = true → step s = .next t → t.wf = true

/-- The reset state meets the invariants, and reset leaves it as it is. (10_state.md,
70_reset_and_hazards.md) That State.reset holds no program, and so what its pc is, is the model's
choice (log entries 1 and 4). -/
def Obligations.ResetStateMeetsInvariants : Prop :=
  StatusInv State.reset ∧ State.reset.wf = true ∧ RunInv State.reset ∧ State.reset.cpuReset = State.reset

/-- A byte access at 0xFFFF raises; any other reads the byte, or writes it and changes nothing else.
(R52, R53) -/
def Obligations.ByteReadAndWrite : Prop :=
  ∀ (s : State) (a : Word) (v : Byte),
    (a = 0xFFFF#16 →
      memRead s a = .error (.outOfRangeAddress 0xFFFF#16) ∧ memWrite s a v = .error (.outOfRangeAddress 0xFFFF#16)) ∧
    (a ≠ 0xFFFF#16 → (∃ b, memRead s a = .ok b) ∧
      ∃ t, memWrite s a v = .ok t ∧ t = { s with mem := t.mem } ∧ StoredOnly a v s t)

/-- A word is written low byte first and read back at every address up to 0xFFFD; at 0xFFFE the low
byte is written, then it raises. (R55) -/
def Obligations.WordWriteThenReadReturnsWord : Prop :=
  ∀ (s : State) (a w : Word),
    (a.toNat ≤ 0xFFFD → ∃ t, memWrite16 s a w = .next t ∧ t = { s with mem := t.mem } ∧
      memRead16 t a = .ok w ∧ memRead t a = .ok (lowByte w) ∧ memRead t (a + 1) = .ok (highByte w) ∧
      (∀ b, b ≠ a → b ≠ a + 1 → memRead t b = memRead s b) ∧
      ∃ lo hi, memRead s a = .ok lo ∧ memRead s (a + 1) = .ok hi ∧
        memRead16 s a = .ok (BitVec.ofNat 16 (hi.toNat * 256 + lo.toNat))) ∧
    (a = 0xFFFE#16 → memRead16 s a = .error (.outOfRangeAddress 0xFFFF#16) ∧
      ∃ t, memWrite16 s a w = .next t ∧
        t = { s with mem := t.mem, run := .faulted (.outOfRangeAddress 0xFFFF#16) } ∧
        StoredOnly a (lowByte w) s t) ∧
    (a = 0xFFFF#16 → memRead16 s a = .error (.outOfRangeAddress 0xFFFF#16) ∧
      memWrite16 s a w = .next { s with run := .faulted (.outOfRangeAddress 0xFFFF#16) })

/-- SetZN writes Z and N from the byte and keeps the other six bits; the eight flags are bits 0 to 7
of P in order. (10_state.md, 92_eei_decisions.md D19) R28's bit positions are the spec's own decision
D19; SetZN is R33. -/
def Obligations.SetZNWritesZeroAndNegativeAlone : Prop :=
  (∀ p v : Byte, ∀ k < 8, (setZN p v).getLsbD k
    = if k = 1 then decide (v.toNat = 0) else if k = 7 then decide (128 ≤ v.toNat) else p.getLsbD k) ∧
  ∀ p : Byte, [Flag.c, .z, .i, .d, .b, .b2, .v, .n].map (getFlag p)
    = [p.getLsbD 0, p.getLsbD 1, p.getLsbD 2, p.getLsbD 3, p.getLsbD 4, p.getLsbD 5, p.getLsbD 6, p.getLsbD 7]

/-- A push stores at 0x0100 + S and then lowers S by 1 mod 256; a pop raises S by 1 and reads there; a
pop undoes a push. (47_stack.md, 20_memory.md, 92_eei_decisions.md D2, D4) R210 and R62: the spec's
own decisions D4 and D2. -/
def Obligations.PushAndPopUseTheStackPage : Prop :=
  ∀ (s : State) (v : Byte), (stackAddress s).toNat = 0x0100 + s.sp.toNat ∧
    (push v s).sp.toNat = (s.sp.toNat + 255) % 256 ∧ (popped s).sp.toNat = (s.sp.toNat + 1) % 256 ∧
    push v s = { s with sp := (push v s).sp, mem := (push v s).mem } ∧
    StoredOnly (stackAddress s) v s (push v s) ∧
    popped s = { s with sp := (popped s).sp } ∧
    memRead s (stackAddress (popped s)) = .ok (topByte s) ∧
    topByte (push v s) = v ∧ (popped (push v s)).sp = s.sp

/-- The effective address of each of the nine modes, in integer arithmetic, where the operand bytes
exist. (40_addressing.md, 20_memory.md) -/
def Obligations.EffectiveAddresses : Prop :=
  ∀ (s : State) (z : Byte) (w : Word),
    resolve (.immediate z) s = .ok s.pc ∧
    (s.pc ≠ 0xFFFF#16 →
      resolve (.zeroPage z) s = .ok (BitVec.ofNat 16 z.toNat) ∧
      resolve (.zeroPageX z) s = .ok (BitVec.ofNat 16 ((z.toNat + s.x.toNat) % 256)) ∧
      resolve (.zeroPageY z) s = .ok (BitVec.ofNat 16 ((z.toNat + s.y.toNat) % 256)) ∧
      (∀ lo hi : Byte, memRead s (BitVec.ofNat 16 ((z.toNat + s.x.toNat) % 256)) = .ok lo →
        memRead s (BitVec.ofNat 16 ((z.toNat + s.x.toNat + 1) % 256)) = .ok hi →
        resolve (.indirectX z) s = .ok (BitVec.ofNat 16 (hi.toNat * 256 + lo.toNat))) ∧
      ∀ lo hi : Byte, memRead s (BitVec.ofNat 16 z.toNat) = .ok lo →
        memRead s (BitVec.ofNat 16 ((z.toNat + 1) % 256)) = .ok hi →
        resolve (.indirectY z) s
          = .ok (BitVec.ofNat 16 ((hi.toNat * 256 + lo.toNat + s.y.toNat) % 65536))) ∧
    (s.pc ≠ 0xFFFF#16 → s.pc ≠ 0xFFFE#16 →
      resolve (.absolute w) s = .ok w ∧
      resolve (.absoluteX w) s = .ok (BitVec.ofNat 16 ((w.toNat + s.x.toNat) % 65536)) ∧
      resolve (.absoluteY w) s = .ok (BitVec.ofNat 16 ((w.toNat + s.y.toNat) % 65536)))

/-- Reading an operand raises exactly if a byte of it lies at 0xFFFF or its effective address is
0xFFFF; a form with no mode has no address. (40_addressing.md, 20_memory.md, 60_exceptions.md) -/
def Obligations.OperandReadsFaultOnlyAtMissingByte : Prop :=
  ∀ (i : Instr) (s : State),
    (i.form.mode ≠ .noneAddressing →
      ((∃ m, readOperand i.operand s = .ok m) ↔ ¬ OperandFaults i s) ∧
      (OperandFaults i s → readOperand i.operand s = .error (.outOfRangeAddress 0xFFFF#16)) ∧
      (i.form ≠ .immediate → OperandByteMissing i s →
        resolve i.operand s = .error (.outOfRangeAddress 0xFFFF#16)) ∧
      (¬ OperandByteMissing i s → ∃ ea, resolve i.operand s = .ok ea) ∧
      (∀ ea, i.form ≠ .immediate → resolve i.operand s = .ok ea → readOperand i.operand s = memRead s ea) ∧
      ∀ b, i.operand = .immediate b → s.pc ≠ 0xFFFF#16 → readOperand i.operand s = .ok b) ∧
    (i.form.mode = .noneAddressing → resolve i.operand s = .error .unsupportedAddressingMode)

/-- The operand an instruction carries from decode is the one the spec's resolver reads at pc1.
(40_addressing.md, 41_execution_cycle.md) That the instruction carries its operand bytes is the
model's choice (log entry 5); this says that it makes no difference. -/
def Obligations.DecodedOperandIsTheOneAtPc : Prop :=
  ∀ (s t : State) (i : Instr) (n : Nat), fetch s = .decoded i n t →
    resolve i.operand t = resolveAt i.form.mode t ∧
    readOperand i.operand t
      = match resolveAt i.form.mode t with
        | .ok ea => memRead t ea
        | .error c => .error c

/-- LDA loads the operand into A and sets Z and N from it; nothing else changes, and it raises with
nothing changed. (R150) -/
def Obligations.LdaLoadsAccumulator : Prop :=
  ((HasEncodings .lda [(0xA9, .immediate), (0xA5, .zeroPage), (0xB5, .zeroPageX), (0xAD, .absolute), (0xBD, .absoluteX),
    (0xB9, .absoluteY), (0xA1, .indirectX), (0xB1, .indirectY)]) ∧
    ∀ (i : Instr) (s : State), i.mnemonic = .lda →
      (∀ v, readOperand i.operand s = .ok v → AnswersWithZN i s { s with a := v } v) ∧
      (OperandFaults i s → TakesOutOfRange i s))

/-- LDX and LDY load the operand into X or Y and set Z and N from it; nothing else changes, and they
raise with nothing changed. (R151, R152) -/
def Obligations.LdxAndLdyLoadIndexRegisters : Prop :=
  ((HasEncodings .ldx [(0xA2, .immediate), (0xA6, .zeroPage), (0xB6, .zeroPageY), (0xAE, .absolute), (0xBE, .absoluteY)]) ∧
    ∀ (i : Instr) (s : State), i.mnemonic = .ldx →
      (∀ v, readOperand i.operand s = .ok v → AnswersWithZN i s { s with x := v } v) ∧
      (OperandFaults i s → TakesOutOfRange i s)) ∧
  ((HasEncodings .ldy [(0xA0, .immediate), (0xA4, .zeroPage), (0xB4, .zeroPageX), (0xAC, .absolute), (0xBC, .absoluteX)]) ∧
    ∀ (i : Instr) (s : State), i.mnemonic = .ldy →
      (∀ v, readOperand i.operand s = .ok v → AnswersWithZN i s { s with y := v } v) ∧
      (OperandFaults i s → TakesOutOfRange i s))

/-- STA stores A at its effective address and nowhere else; no register and no flag changes, and it
raises with nothing changed. (R153) -/
def Obligations.StaStoresAccumulator : Prop :=
  ((HasEncodings .sta [(0x85, .zeroPage), (0x95, .zeroPageX), (0x8D, .absolute), (0x9D, .absoluteX), (0x99, .absoluteY),
    (0x81, .indirectX), (0x91, .indirectY)]) ∧
    ∀ (i : Instr) (s : State), i.mnemonic = .sta →
      (∀ ea, resolve i.operand s = .ok ea → ea ≠ 0xFFFF#16 →
        ∃ t, exec i s = .next t ∧ t = { s with mem := t.mem } ∧ StoredOnly ea s.a s t) ∧
      (OperandFaults i s → TakesOutOfRange i s))

/-- STX and STY store X or Y at their effective address and nowhere else; nothing else changes, and
they raise with nothing changed. (R154, R155) -/
def Obligations.StxAndStyStoreIndexRegisters : Prop :=
  ((HasEncodings .stx [(0x86, .zeroPage), (0x96, .zeroPageY), (0x8E, .absolute)]) ∧
    ∀ (i : Instr) (s : State), i.mnemonic = .stx →
      (∀ ea, resolve i.operand s = .ok ea → ea ≠ 0xFFFF#16 →
        ∃ t, exec i s = .next t ∧ t = { s with mem := t.mem } ∧ StoredOnly ea s.x s t) ∧
      (OperandFaults i s → TakesOutOfRange i s)) ∧
  ((HasEncodings .sty [(0x84, .zeroPage), (0x94, .zeroPageX), (0x8C, .absolute)]) ∧
    ∀ (i : Instr) (s : State), i.mnemonic = .sty →
      (∀ ea, resolve i.operand s = .ok ea → ea ≠ 0xFFFF#16 →
        ∃ t, exec i s = .next t ∧ t = { s with mem := t.mem } ∧ StoredOnly ea s.y s t) ∧
      (OperandFaults i s → TakesOutOfRange i s))

/-- TAX, TAY, TXA, TYA and TSX copy a register and set Z and N from it; nothing else changes. (R156,
R157, R158, R159, R160) -/
def Obligations.TransfersCopyAndSetZN : Prop :=
  (HasEncodings .tax [(0xAA, .implied)]) ∧ (HasEncodings .tay [(0xA8, .implied)]) ∧
  (HasEncodings .txa [(0x8A, .implied)]) ∧ (HasEncodings .tya [(0x98, .implied)]) ∧
  (HasEncodings .tsx [(0xBA, .implied)]) ∧
  ∀ s : State, AnswersWithZN .tax s { s with x := s.a } s.a ∧ AnswersWithZN .tay s { s with y := s.a } s.a ∧
    AnswersWithZN .txa s { s with a := s.x } s.x ∧ AnswersWithZN .tya s { s with a := s.y } s.y ∧
    AnswersWithZN .tsx s { s with x := s.sp } s.sp

/-- TXS copies X into S, whatever X is; no flag and nothing else changes. (R161) -/
def Obligations.TxsCopiesWithoutFlags : Prop :=
  (HasEncodings .txs [(0x9A, .implied)]) ∧
  ∀ s : State, exec .txs s = .next { s with sp := s.x }

/-- INX, INY, DEX and DEY count X or Y up or down by 1 mod 256 and set Z and N from the result;
nothing else changes. (R170, R171, R174, R175) -/
def Obligations.IndexRegistersCountModulo256 : Prop :=
  (HasEncodings .inx [(0xE8, .implied)]) ∧ (HasEncodings .iny [(0xC8, .implied)]) ∧
  (HasEncodings .dex [(0xCA, .implied)]) ∧ (HasEncodings .dey [(0x88, .implied)]) ∧
  (∀ b : Byte, (b + 1).toNat = (b.toNat + 1) % 256 ∧ (b - 1).toNat = (b.toNat + 255) % 256) ∧
  ∀ s : State, AnswersWithZN .inx s { s with x := s.x + 1 } (s.x + 1) ∧
    AnswersWithZN .iny s { s with y := s.y + 1 } (s.y + 1) ∧
    AnswersWithZN .dex s { s with x := s.x - 1 } (s.x - 1) ∧
    AnswersWithZN .dey s { s with y := s.y - 1 } (s.y - 1)

/-- INC adds 1 mod 256 to the byte at its effective address and sets Z and N; nothing else changes,
and it raises with nothing changed. (R172) -/
def Obligations.IncAddsOneToMemory : Prop :=
  (HasEncodings .inc [(0xE6, .zeroPage), (0xF6, .zeroPageX), (0xEE, .absolute), (0xFE, .absoluteX)]) ∧
    ∀ (i : Instr) (s : State), i.mnemonic = .inc →
      (∀ ea v, resolve i.operand s = .ok ea → memRead s ea = .ok v →
        ∃ t, exec i s = .next t ∧ t = { s with mem := t.mem, p := t.p } ∧
          StoredOnly ea (v + 1) s t ∧ ZNOf (v + 1) t ∧ FlagsKept [.z, .n] s t) ∧
      (OperandFaults i s → TakesOutOfRange i s)

/-- DEC takes 1 mod 256 from the byte at its effective address and sets Z and N; nothing else changes,
and it raises with nothing changed. (R173) -/
def Obligations.DecSubtractsOneFromMemory : Prop :=
  (HasEncodings .dec [(0xC6, .zeroPage), (0xD6, .zeroPageX), (0xCE, .absolute), (0xDE, .absoluteX)]) ∧
    ∀ (i : Instr) (s : State), i.mnemonic = .dec →
      (∀ ea v, resolve i.operand s = .ok ea → memRead s ea = .ok v →
        ∃ t, exec i s = .next t ∧ t = { s with mem := t.mem, p := t.p } ∧
          StoredOnly ea (v - 1) s t ∧ ZNOf (v - 1) t ∧ FlagsKept [.z, .n] s t) ∧
      (OperandFaults i s → TakesOutOfRange i s)

/-- AND, EOR and ORA combine A with the operand bitwise into A and set Z and N; nothing else changes,
and they raise with nothing changed. (R180, R181, R182) -/
def Obligations.AndEorOraCombineIntoAccumulator : Prop :=
  ((HasEncodings .and [(0x29, .immediate), (0x25, .zeroPage), (0x35, .zeroPageX), (0x2D, .absolute), (0x3D, .absoluteX),
    (0x39, .absoluteY), (0x21, .indirectX), (0x31, .indirectY)]) ∧
    ∀ (i : Instr) (s : State), i.mnemonic = .and →
      (∀ v, readOperand i.operand s = .ok v →
        AnswersWithZN i s { s with a := s.a &&& v } (s.a &&& v)) ∧
      (OperandFaults i s → TakesOutOfRange i s)) ∧
  ((HasEncodings .eor [(0x49, .immediate), (0x45, .zeroPage), (0x55, .zeroPageX), (0x4D, .absolute), (0x5D, .absoluteX),
    (0x59, .absoluteY), (0x41, .indirectX), (0x51, .indirectY)]) ∧
    ∀ (i : Instr) (s : State), i.mnemonic = .eor →
      (∀ v, readOperand i.operand s = .ok v →
        AnswersWithZN i s { s with a := s.a ^^^ v } (s.a ^^^ v)) ∧
      (OperandFaults i s → TakesOutOfRange i s)) ∧
  ((HasEncodings .ora [(0x09, .immediate), (0x05, .zeroPage), (0x15, .zeroPageX), (0x0D, .absolute), (0x1D, .absoluteX),
    (0x19, .absoluteY), (0x01, .indirectX), (0x11, .indirectY)]) ∧
    ∀ (i : Instr) (s : State), i.mnemonic = .ora →
      (∀ v, readOperand i.operand s = .ok v →
        AnswersWithZN i s { s with a := s.a ||| v } (s.a ||| v)) ∧
      (OperandFaults i s → TakesOutOfRange i s))

/-- BIT sets Z from A and the operand, and N and V from the operand's bits 7 and 6; A and all else are
unchanged. (R183) -/
def Obligations.BitTestsOperandBits : Prop :=
  (HasEncodings .bit [(0x24, .zeroPage), (0x2C, .absolute)]) ∧
  ∀ (i : Instr) (s : State), i.mnemonic = .bit →
    (∀ m, readOperand i.operand s = .ok m →
      ∃ t, exec i s = .next t ∧ t = { s with p := t.p } ∧ t.flag .z = (s.a &&& m == 0) ∧
        t.flag .n = m.getLsbD 7 ∧ t.flag .v = m.getLsbD 6 ∧ FlagsKept [.z, .n, .v] s t) ∧
    (OperandFaults i s → TakesOutOfRange i s)

/-- ADC adds the operand and Carry to A, with C, V, Z and N as the contract computes them; nothing
else changes. (R190) -/
def Obligations.AdcAddsWithCarry : Prop :=
  (HasEncodings .adc [(0x69, .immediate), (0x65, .zeroPage), (0x75, .zeroPageX), (0x6D, .absolute), (0x7D, .absoluteX),
    (0x79, .absoluteY), (0x61, .indirectX), (0x71, .indirectY)]) ∧
    ∀ (i : Instr) (s : State), i.mnemonic = .adc →
      (∀ m, readOperand i.operand s = .ok m →
        let sum : Nat := s.a.toNat + m.toNat + (s.flag .c).toNat
        let r : Byte := BitVec.ofNat 8 (sum % 256)
        ∃ t, exec i s = .next t ∧ t = { s with a := r, p := t.p } ∧ t.flag .c = decide (sum > 0xFF) ∧
          t.flag .v = ((m ^^^ r) &&& (r ^^^ s.a) &&& 0x80 != 0) ∧ ZNOf r t ∧
          FlagsKept [.c, .v, .z, .n] s t) ∧
      (OperandFaults i s → TakesOutOfRange i s)

/-- SBC adds the transformed operand 0 - m - 1 and Carry to A, with C, V, Z and N as ADC computes
them; nothing else changes. (R191) -/
def Obligations.SbcSubtractsWithCarry : Prop :=
  (HasEncodings .sbc [(0xE9, .immediate), (0xE5, .zeroPage), (0xF5, .zeroPageX), (0xED, .absolute), (0xFD, .absoluteX),
    (0xF9, .absoluteY), (0xE1, .indirectX), (0xF1, .indirectY)]) ∧
    ∀ (i : Instr) (s : State), i.mnemonic = .sbc →
      (∀ m, readOperand i.operand s = .ok m →
        let n : Byte := 0 - m - 1
        let sum : Nat := s.a.toNat + n.toNat + (s.flag .c).toNat
        let r : Byte := BitVec.ofNat 8 (sum % 256)
        ∃ t, exec i s = .next t ∧ t = { s with a := r, p := t.p } ∧ t.flag .c = decide (sum > 0xFF) ∧
          t.flag .v = ((n ^^^ r) &&& (r ^^^ s.a) &&& 0x80 != 0) ∧ ZNOf r t ∧
          FlagsKept [.c, .v, .z, .n] s t) ∧
      (OperandFaults i s → TakesOutOfRange i s)

/-- ADC and SBC are exact 9-bit sums and differences, V is the signed overflow, and compare is SBC
after SEC without the write. (45_arith_compare.md) R197 and the corner cases of R190 and R191 are the
spec's own inferences. -/
def Obligations.CarryChainArithmetic : Prop :=
  (∀ (i : Instr) (s : State) (m : Byte), i.mnemonic = .adc → readOperand i.operand s = .ok m →
    ∃ t, exec i s = .next t ∧
      s.a.toNat + m.toNat + (s.flag .c).toNat = 256 * (t.flag .c).toNat + t.a.toNat ∧
      (t.flag .v = true ↔ s.a.toInt + m.toInt + (s.flag .c).toNat < -128
        ∨ 127 < s.a.toInt + m.toInt + (s.flag .c).toNat) ∧
      ¬ (t.flag .z = true ∧ t.flag .n = true)) ∧
  (∀ (i : Instr) (s : State) (m : Byte), i.mnemonic = .sbc → readOperand i.operand s = .ok m →
    ∃ t, exec i s = .next t ∧
      (s.a.toNat : Int) - m.toNat - (1 - (s.flag .c).toNat) = t.a.toNat - 256 * (1 - (t.flag .c).toNat) ∧
      (t.flag .v = true ↔ s.a.toInt - m.toInt - (1 - (s.flag .c).toNat) < -128
        ∨ 127 < s.a.toInt - m.toInt - (1 - (s.flag .c).toNat)) ∧
      ¬ (t.flag .z = true ∧ t.flag .n = true)) ∧
  ∀ (i j : Instr) (s : State) (m : Byte), j.mnemonic = .sbc →
    (i.mnemonic = .cmp ∨ (i.mnemonic = .cpx ∧ s.x = s.a) ∨ (i.mnemonic = .cpy ∧ s.y = s.a)) →
    readOperand i.operand s = .ok m → readOperand j.operand s = .ok m →
    ∃ t s' u, exec i s = .next t ∧ exec .sec s = .next s' ∧ exec j s' = .next u ∧
      t = { s with p := t.p } ∧ t.flag .v = s.flag .v ∧
      t.flag .c = u.flag .c ∧ t.flag .z = u.flag .z ∧ t.flag .n = u.flag .n

/-- CMP, CPX and CPY set C if the operand is at most the register, and Z and N of the difference;
nothing else changes. (R192, R193, R194) -/
def Obligations.ComparesSetCarryZeroNegative : Prop :=
  ((HasEncodings .cmp [(0xC9, .immediate), (0xC5, .zeroPage), (0xD5, .zeroPageX), (0xCD, .absolute), (0xDD, .absoluteX),
    (0xD9, .absoluteY), (0xC1, .indirectX), (0xD1, .indirectY)]) ∧
    ∀ (i : Instr) (s : State), i.mnemonic = .cmp →
      (∀ m, readOperand i.operand s = .ok m →
        ∃ t, exec i s = .next t ∧ t = { s with p := t.p } ∧
          t.flag .c = decide (m.toNat ≤ s.a.toNat) ∧ ZNOf (s.a - m) t ∧ FlagsKept [.c, .z, .n] s t) ∧
      (OperandFaults i s → TakesOutOfRange i s)) ∧
  ((HasEncodings .cpx [(0xE0, .immediate), (0xE4, .zeroPage), (0xEC, .absolute)]) ∧
    ∀ (i : Instr) (s : State), i.mnemonic = .cpx →
      (∀ m, readOperand i.operand s = .ok m →
        ∃ t, exec i s = .next t ∧ t = { s with p := t.p } ∧
          t.flag .c = decide (m.toNat ≤ s.x.toNat) ∧ ZNOf (s.x - m) t ∧ FlagsKept [.c, .z, .n] s t) ∧
      (OperandFaults i s → TakesOutOfRange i s)) ∧
  ((HasEncodings .cpy [(0xC0, .immediate), (0xC4, .zeroPage), (0xCC, .absolute)]) ∧
    ∀ (i : Instr) (s : State), i.mnemonic = .cpy →
      (∀ m, readOperand i.operand s = .ok m →
        ∃ t, exec i s = .next t ∧ t = { s with p := t.p } ∧
          t.flag .c = decide (m.toNat ≤ s.y.toNat) ∧ ZNOf (s.y - m) t ∧ FlagsKept [.c, .z, .n] s t) ∧
      (OperandFaults i s → TakesOutOfRange i s))

/-- ASL shifts left by one bit A or the byte at its effective address, C is old bit 7, Z and N of the
result; nothing else changes. (R200, R204) -/
def Obligations.AslShiftsLeft : Prop :=
  (HasEncodings .asl [(0x0A, .accumulator), (0x06, .zeroPage), (0x16, .zeroPageX), (0x0E, .absolute), (0x1E, .absoluteX)]) ∧
    (∀ s : State,
      let r : Byte := s.a <<< 1
      ∃ t, exec .aslAcc s = .next t ∧ t = { s with a := r, p := t.p } ∧
        t.flag .c = s.a.getLsbD 7 ∧ ZNOf r t ∧ FlagsKept [.c, .z, .n] s t) ∧
    ∀ (i : Instr) (s : State), i.mnemonic = .asl → i.form ≠ .accumulator →
      (∀ ea v, resolve i.operand s = .ok ea → memRead s ea = .ok v →
        let r : Byte := v <<< 1
        ∃ t, exec i s = .next t ∧ t = { s with mem := t.mem, p := t.p } ∧ StoredOnly ea r s t ∧
          t.flag .c = v.getLsbD 7 ∧ ZNOf r t ∧ FlagsKept [.c, .z, .n] s t) ∧
      (OperandFaults i s → TakesOutOfRange i s)

/-- LSR shifts right by one bit A or the byte at its effective address, C is old bit 0, Z and N of the
result; nothing else changes. (R201, R204) -/
def Obligations.LsrShiftsRight : Prop :=
  (HasEncodings .lsr [(0x4A, .accumulator), (0x46, .zeroPage), (0x56, .zeroPageX), (0x4E, .absolute), (0x5E, .absoluteX)]) ∧
    (∀ s : State,
      let r : Byte := s.a >>> 1
      ∃ t, exec .lsrAcc s = .next t ∧ t = { s with a := r, p := t.p } ∧
        t.flag .c = s.a.getLsbD 0 ∧ ZNOf r t ∧ FlagsKept [.c, .z, .n] s t) ∧
    ∀ (i : Instr) (s : State), i.mnemonic = .lsr → i.form ≠ .accumulator →
      (∀ ea v, resolve i.operand s = .ok ea → memRead s ea = .ok v →
        let r : Byte := v >>> 1
        ∃ t, exec i s = .next t ∧ t = { s with mem := t.mem, p := t.p } ∧ StoredOnly ea r s t ∧
          t.flag .c = v.getLsbD 0 ∧ ZNOf r t ∧ FlagsKept [.c, .z, .n] s t) ∧
      (OperandFaults i s → TakesOutOfRange i s)

/-- ROL rotates left through Carry A or the byte at its effective address, C is old bit 7, Z and N of
the result; nothing else changes. (R202, R204) -/
def Obligations.RolRotatesLeftThroughCarry : Prop :=
  (HasEncodings .rol [(0x2A, .accumulator), (0x26, .zeroPage), (0x36, .zeroPageX), (0x2E, .absolute), (0x3E, .absoluteX)]) ∧
    (∀ s : State,
      let r : Byte := s.a <<< 1 ||| (if s.flag .c then 0x01 else 0x00)
      ∃ t, exec .rolAcc s = .next t ∧ t = { s with a := r, p := t.p } ∧
        t.flag .c = s.a.getLsbD 7 ∧ ZNOf r t ∧ FlagsKept [.c, .z, .n] s t) ∧
    ∀ (i : Instr) (s : State), i.mnemonic = .rol → i.form ≠ .accumulator →
      (∀ ea v, resolve i.operand s = .ok ea → memRead s ea = .ok v →
        let r : Byte := v <<< 1 ||| (if s.flag .c then 0x01 else 0x00)
        ∃ t, exec i s = .next t ∧ t = { s with mem := t.mem, p := t.p } ∧ StoredOnly ea r s t ∧
          t.flag .c = v.getLsbD 7 ∧ ZNOf r t ∧ FlagsKept [.c, .z, .n] s t) ∧
      (OperandFaults i s → TakesOutOfRange i s)

/-- ROR rotates right through Carry A or the byte at its effective address, C is old bit 0, Z and N of
the result; nothing else changes. (R203, R204) -/
def Obligations.RorRotatesRightThroughCarry : Prop :=
  (HasEncodings .ror [(0x6A, .accumulator), (0x66, .zeroPage), (0x76, .zeroPageX), (0x6E, .absolute), (0x7E, .absoluteX)]) ∧
    (∀ s : State,
      let r : Byte := s.a >>> 1 ||| (if s.flag .c then 0x80 else 0x00)
      ∃ t, exec .rorAcc s = .next t ∧ t = { s with a := r, p := t.p } ∧
        t.flag .c = s.a.getLsbD 0 ∧ ZNOf r t ∧ FlagsKept [.c, .z, .n] s t) ∧
    ∀ (i : Instr) (s : State), i.mnemonic = .ror → i.form ≠ .accumulator →
      (∀ ea v, resolve i.operand s = .ok ea → memRead s ea = .ok v →
        let r : Byte := v >>> 1 ||| (if s.flag .c then 0x80 else 0x00)
        ∃ t, exec i s = .next t ∧ t = { s with mem := t.mem, p := t.p } ∧ StoredOnly ea r s t ∧
          t.flag .c = v.getLsbD 0 ∧ ZNOf r t ∧ FlagsKept [.c, .z, .n] s t) ∧
      (OperandFaults i s → TakesOutOfRange i s)

/-- PHA pushes A and changes nothing else; PLA pops into A and sets Z and N from it. (47_stack.md,
20_memory.md, 92_eei_decisions.md D2, D4, D9) R212 and R213; that PLA sets Z and N is the spec's own
decision D9. -/
def Obligations.PhaAndPlaMoveAccumulator : Prop :=
  (HasEncodings .pha [(0x48, .implied)]) ∧ (HasEncodings .pla [(0x68, .implied)]) ∧
  ∀ s : State,
    (∃ t, exec .pha s = .next t ∧ t = { s with sp := s.sp - 1, mem := t.mem } ∧
      StoredOnly (stackAddress s) s.a s t) ∧
    ∃ v, memRead s (stackAddress { s with sp := s.sp + 1 }) = .ok v ∧
      AnswersWithZN .pla s { s with a := v, sp := s.sp + 1 } v

/-- PHP pushes P with bits 4 and 5 set and keeps P; PLP pops P with bit 4 cleared and bit 5 set;
together they keep P if B = 0, B2 = 1. (R214, R215) -/
def Obligations.PhpAndPlpMoveStatus : Prop :=
  (HasEncodings .php [(0x08, .implied)]) ∧ (HasEncodings .plp [(0x28, .implied)]) ∧
  ∀ s : State,
    (∃ t, exec .php s = .next t ∧ t = { s with sp := s.sp - 1, mem := t.mem } ∧
      StoredOnly (stackAddress s) (s.p ||| 0x30) s t ∧
      ∃ u, exec .plp t = .next u ∧ (u.p = s.p ↔ StatusInv s)) ∧
    ∃ v, memRead s (stackAddress { s with sp := s.sp + 1 }) = .ok v ∧
      exec .plp s = .next { s with sp := s.sp + 1, p := (v &&& 0xEF) ||| 0x20 }

/-- JMP absolute makes pc its operand word and changes nothing else; it raises if an operand byte lies
at 0xFFFF. (R220) -/
def Obligations.JmpAbsoluteJumps : Prop :=
  (HasEncodings .jmp [(0x4C, .absoluteJump), (0x6C, .indirectJump)]) ∧
  (∀ (s : State) (w : Word),
    (¬ OperandByteMissing (.jmpAbs w) s → exec (.jmpAbs w) s = .next { s with pc := w }) ∧
    (OperandByteMissing (.jmpAbs w) s → TakesOutOfRange (.jmpAbs w) s) ∧
    (OperandByteMissing (.jmpAbs w) s ↔ s.pc = 0xFFFF#16 ∨ s.pc = 0xFFFE#16)) ∧
  ∀ s : State, s.run = .running → BytesAt s s.pc [0x4C, lowByte (s.pc + 1), highByte (s.pc + 1)] →
    step s = .next { s with pc := s.pc + 3 }

/-- JMP indirect makes pc the word at its pointer; with the pointer's low byte 0xFF the high byte
comes from the start of the page. (R221) -/
def Obligations.JmpIndirectWrapsInPage : Prop :=
  (HasEncodings .jmp [(0x4C, .absoluteJump), (0x6C, .indirectJump)]) ∧
  (∀ (s : State) (p : Word),
    (∀ lo hi : Byte, ¬ OperandByteMissing (.jmpInd p) s → memRead s p = .ok lo →
      memRead s (if lowByte p = 0xFF then p &&& 0xFF00 else p + 1) = .ok hi →
      exec (.jmpInd p) s = .next { s with pc := BitVec.ofNat 16 (hi.toNat * 256 + lo.toNat) }) ∧
    (OperandByteMissing (.jmpInd p) s ∨ p = 0xFFFF#16 ∨ p = 0xFFFE#16 → TakesOutOfRange (.jmpInd p) s)) ∧
  ∀ (s : State) (p : Word), s.run = .running → BytesAt s s.pc [0x6C, lowByte p, highByte p] →
    memRead s p = .ok (lowByte (s.pc + 1)) →
    memRead s (if lowByte p = 0xFF then p &&& 0xFF00 else p + 1) = .ok (highByte (s.pc + 1)) →
    step s = .next { s with pc := s.pc + 3 }

/-- JSR pushes the address of its last byte, high byte first, then reads its target; if it raises
there the pushes stay made. (48_control_flow.md, 20_memory.md, 92_eei_decisions.md D2, D5, D20) R222:
the value pushed and the order are the spec's own decision D5. -/
def Obligations.JsrPushesThenReadsTarget : Prop :=
  (HasEncodings .jsr [(0x20, .absoluteJump)]) ∧
  ∀ (s : State) (w : Word), ∃ t, exec (.jsr w) s = .next t ∧
    t = { s with sp := s.sp - 2, mem := t.mem, pc := t.pc, run := t.run } ∧
    memRead t (stackAddress s) = .ok (highByte (s.pc + 1)) ∧
    memRead t (stackAddress { s with sp := s.sp - 1 }) = .ok (lowByte (s.pc + 1)) ∧
    (∀ a, a ≠ stackAddress s → a ≠ stackAddress { s with sp := s.sp - 1 } → memRead t a = memRead s a) ∧
    (¬ OperandByteMissing (.jsr w) s → t.run = s.run ∧ memRead16 t s.pc = .ok t.pc ∧
      ((∀ a ∈ [s.pc, s.pc + 1], a ≠ stackAddress s ∧ a ≠ stackAddress { s with sp := s.sp - 1 }) →
        memRead16 s s.pc = .ok t.pc)) ∧
    (OperandByteMissing (.jsr w) s → t.run = .faulted (.outOfRangeAddress 0xFFFF#16) ∧ t.pc = s.pc)

/-- RTS pops pc low byte first and adds 1; RTI pops P as PLP does and then pc, adding nothing; nothing
else changes. (48_control_flow.md, 47_stack.md, 92_eei_decisions.md D5, D6) R223 and R224: the spec's
own decisions D5 and D6. -/
def Obligations.RtsAndRtiPullPc : Prop :=
  (HasEncodings .rts [(0x60, .implied)]) ∧ (HasEncodings .rti [(0x40, .implied)]) ∧
  ∀ s : State, ∃ b1 b2 b3 : Byte,
    memRead s (stackAddress { s with sp := s.sp + 1 }) = .ok b1 ∧
    memRead s (stackAddress { s with sp := s.sp + 2 }) = .ok b2 ∧
    memRead s (stackAddress { s with sp := s.sp + 3 }) = .ok b3 ∧
    exec .rts s = .next { s with sp := s.sp + 2, pc := BitVec.ofNat 16 (b2.toNat * 256 + b1.toNat + 1) } ∧
    exec .rti s = .next { s with
      sp := s.sp + 3, p := (b1 &&& 0xEF) ||| 0x20, pc := BitVec.ofNat 16 (b3.toNat * 256 + b2.toNat) }

/-- A branch whose condition holds makes pc = pc1 + 1 + the signed offset; otherwise nothing changes;
it raises at 0xFFFF either way. (48_control_flow.md, 92_eei_decisions.md D10) R225 to R233; that an
untaken branch reads its offset byte is the spec's own decision D10. -/
def Obligations.BranchesAddSignedOffset : Prop :=
  (HasEncodings .bcc [(0x90, .relative)]) ∧ (HasEncodings .bcs [(0xB0, .relative)]) ∧
  (HasEncodings .beq [(0xF0, .relative)]) ∧ (HasEncodings .bne [(0xD0, .relative)]) ∧
  (HasEncodings .bpl [(0x10, .relative)]) ∧ (HasEncodings .bmi [(0x30, .relative)]) ∧
  (HasEncodings .bvc [(0x50, .relative)]) ∧ (HasEncodings .bvs [(0x70, .relative)]) ∧
  ∀ (s : State) (off : Byte), ∀ e ∈ [(Instr.bcc off, Flag.c, false), (.bcs off, .c, true),
      (.beq off, .z, true), (.bne off, .z, false), (.bpl off, .n, false), (.bmi off, .n, true),
      (.bvc off, .v, false), (.bvs off, .v, true)],
    (s.pc ≠ 0xFFFF#16 → ∃ target : Word,
      (target.toNat : Int) = (s.pc.toNat + 1 + off.toInt) % 65536 ∧
      exec e.1 s = .next (if s.flag e.2.1 = e.2.2 then { s with pc := target } else s)) ∧
    (s.pc = 0xFFFF#16 → TakesOutOfRange e.1 s)

/-- A subroutine that leaves S where it found it returns to the instruction after its JSR.
(48_control_flow.md, 92_eei_decisions.md D5) R236 is the spec's own inference from R222 and R223. -/
def Obligations.RtsReturnsAfterJsr : Prop :=
  ∀ (s : State) (lo hi : Byte), s.run = .running → BytesAt s s.pc [0x20, lo, hi] →
    ∃ u, step s = .next u ∧ (u.run = .running ∧ u.sp = s.sp - 2) ∧
      ∀ v : State, v.run = .running → v.sp = u.sp → memRead v v.pc = .ok 0x60 →
        (∀ k ∈ [1, 2], memRead v (stackAddress { u with sp := u.sp + k })
          = memRead u (stackAddress { u with sp := u.sp + k })) →
        step v = .next { v with pc := s.pc + 3, sp := s.sp }

/-- CLC, SEC, CLI, SEI, CLD, SED and CLV write one flag and nothing else; NOP changes nothing. (R250,
R251, R252, R253, R254, R255, R256, R257) -/
def Obligations.FlagInstructionsWriteOneFlag : Prop :=
  (HasEncodings .clc [(0x18, .implied)]) ∧ (HasEncodings .sec [(0x38, .implied)]) ∧
  (HasEncodings .cli [(0x58, .implied)]) ∧ (HasEncodings .sei [(0x78, .implied)]) ∧
  (HasEncodings .cld [(0xD8, .implied)]) ∧ (HasEncodings .sed [(0xF8, .implied)]) ∧
  (HasEncodings .clv [(0xB8, .implied)]) ∧ (HasEncodings .nop [(0xEA, .implied)]) ∧
  ∀ s : State, exec .nop s = .next s ∧
    ∀ e ∈ [(Instr.clc, Flag.c, false), (.sec, .c, true), (.cli, .i, false), (.sei, .i, true),
      (.cld, .d, false), (.sed, .d, true), (.clv, .v, false)],
      ∃ t, exec e.1 s = .next t ∧ t = { s with p := t.p } ∧ t.flag e.2.1 = e.2.2 ∧ FlagsKept [e.2.1] s t

/-- Only STA, STX, STY, INC, DEC, the memory forms of the shifts, PHA, PHP and JSR write memory.
(20_memory.md) -/
def Obligations.OnlyListedInstructionsWriteMemory : Prop :=
  ∀ (i : Instr) (s t : State), writesMemory i = false → exec i s = .next t → t.mem = s.mem

/-- A register is written only by the instructions listed as its writers, and pc by a handler only of
a jump, call, return or branch. (10_state.md, 48_control_flow.md) -/
def Obligations.OnlyListedInstructionsWriteRegisters : Prop :=
  ∀ (i : Instr) (s t : State), exec i s = .next t →
    (∀ r, writesReg i r = false → t.reg r = s.reg r) ∧ (writesPc i = false → t.pc = s.pc)

/-- A flag is written only by the instructions listed as its writers; PLP and RTI leave Break 0 and
Break2 1. (10_state.md) -/
def Obligations.OnlyListedInstructionsWriteFlags : Prop :=
  ∀ (i : Instr) (s t : State), exec i s = .next t →
    (∀ f, i.mnemonic ∉ flagWriters f → t.flag f = s.flag f) ∧
    (i.mnemonic = .plp ∨ i.mnemonic = .rti → StatusInv t)

/-- I and D have no function: but for PHP, two runs of an instruction from states that differ in I or
D alone end alike but for it. (10_state.md, 45_arith_compare.md, 60_exceptions.md, 92_eei_decisions.md
D8, D14) That arithmetic is binary and that no interrupt exists are the spec's own decisions D8 and
D14. -/
def Obligations.InterruptDisableAndDecimalHaveNoFunction : Prop :=
  ∀ (i : Instr) (s t : State) (f : Flag) (b : Bool), f = .i ∨ f = .d → i.mnemonic ≠ .php →
    exec i s = .next t →
    ∃ u, exec i { s with p := setFlag s.p f b } = .next u ∧
      { u with p := setFlag u.p f false } = { t with p := setFlag t.p f false }

/-- Reset zeroes A, X and Y, makes S 0xFD and P 0x24, loads pc from the vector at 0xFFFC, and leaves
memory as it is. (70_reset_and_hazards.md, 10_state.md, 92_eei_decisions.md D15) R300; that reset
makes the machine Running is the spec's own decision D15. -/
def Obligations.ResetLoadsVectorAndDefaults : Prop :=
  ∀ s : State, ∃ lo hi : Byte, memRead s 0xFFFC#16 = .ok lo ∧ memRead s 0xFFFD#16 = .ok hi ∧
    s.cpuReset = {
      a := 0x00, x := 0x00, y := 0x00, sp := 0xFD, p := 0x24
      pc := BitVec.ofNat 16 (hi.toNat * 256 + lo.toNat), mem := s.mem, run := .running }

/-- A program of at most 0x7FFF bytes is loaded at 0x8000 and its address written to the vector, which
wins; a longer one is refused. (70_reset_and_hazards.md, 92_eei_decisions.md D22) R305 to R307 and
R309; the load base and the order are the spec's own decision D22. -/
def Obligations.LaunchInstallsProgram : Prop :=
  ∀ (m : Memory) (prog : List Byte),
    (prog.length ≤ 0x7FFF → ∃ loaded s, hostLoad prog m = some loaded ∧ launch m prog = some s ∧
      s = { a := 0x00, x := 0x00, y := 0x00, sp := 0xFD, p := 0x24, pc := 0x8000, mem := loaded, run := .running } ∧
      memRead s 0xFFFC#16 = .ok 0x00 ∧ memRead s 0xFFFD#16 = .ok 0x80 ∧
      (∀ k (h : k < prog.length), k ≠ 0x7FFC → k ≠ 0x7FFD →
        memRead s (BitVec.ofNat 16 (0x8000 + k)) = .ok prog[k]) ∧
      ∀ a : Nat, a ≠ 0xFFFC → a ≠ 0xFFFD → a < 0x8000 ∨ 0x8000 + prog.length ≤ a →
        Memory.peek loaded a = Memory.peek m a) ∧
    (0x7FFF < prog.length → hostLoad prog m = none ∧ launch m prog = none)
end

