-- ==== Sys2Proof/Laws/Decode.lean ====
section
/-! SUPPORT. The decoder: byte order, what a lookup gives, and what a row builds. -/

namespace Sys2Proof

theorem wordOf_toNat (hi lo : Byte) : (wordOf hi lo).toNat = hi.toNat * 256 + lo.toNat := by
  have := hi.isLt; have := lo.isLt
  simp only [wordOf, BitVec.toNat_ofNat]
  omega

@[simp] theorem lowByte_wordOf (hi lo : Byte) : lowByte (wordOf hi lo) = lo := by
  apply BitVec.eq_of_toNat_eq
  have := lo.isLt
  simp only [lowByte, BitVec.toNat_ofNat, wordOf_toNat]
  omega

@[simp] theorem highByte_wordOf (hi lo : Byte) : highByte (wordOf hi lo) = hi := by
  apply BitVec.eq_of_toNat_eq
  have := hi.isLt; have := lo.isLt
  simp only [highByte, BitVec.toNat_ofNat, wordOf_toNat]
  omega

@[simp] theorem wordOf_highByte_lowByte (w : Word) : wordOf (highByte w) (lowByte w) = w := by
  apply BitVec.eq_of_toNat_eq
  have := w.isLt
  simp only [wordOf_toNat, highByte, lowByte, BitVec.toNat_ofNat]
  omega

/-- A lookup gives a row of the table with that opcode. -/
theorem opRow?_mem {op : Byte} {row : OpRow} (h : opRow? op = some row) : row ∈ opTable ∧ row.opcode = op :=
  ⟨List.mem_of_find?_eq_some h, by simpa [opRow?] using List.find?_some h⟩

/-- The operand bytes that an instruction carries when it is built from the two bytes after the opcode. -/
def Build.operandBytes : Build → Byte → Byte → List Byte
  | .plain _, _, _ => []
  | .byte _, b1, _ => [b1]
  | .word _, b1, b2 => [lowByte (wordOf b2 b1), highByte (wordOf b2 b1)]

/-- The row describes every instruction it builds, and these are well formed and carry the bytes they are
built from. -/
def OpRow.Describes (row : OpRow) : Prop :=
  ∀ b1 b2, (row.build.apply b1 b2).opcode = row.opcode ∧ (row.build.apply b1 b2).mnemonic = row.desc.mnemonic
    ∧ (row.build.apply b1 b2).form = row.desc.form ∧ (row.build.apply b1 b2).length = row.desc.length
    ∧ (row.build.apply b1 b2).wf = true
    ∧ (row.build.apply b1 b2).operand.bytes = row.build.operandBytes b1 b2

theorem opRowsAdcToAnd_describe : ∀ row ∈ opRowsAdcToAnd, row.Describes := by
  simp only [opRowsAdcToAnd, List.forall_mem_cons]
  refine ⟨?_, ?_, ?_, ?_, ?_, ?_, ?_, ?_, ?_, ?_, ?_, ?_, ?_, ?_, ?_, ?_, fun _ h => absurd h List.not_mem_nil⟩ <;>
    exact fun _ _ => ⟨rfl, rfl, rfl, rfl, rfl, rfl⟩

theorem opRowsAslToBvs_describe : ∀ row ∈ opRowsAslToBvs, row.Describes := by
  simp only [opRowsAslToBvs, List.forall_mem_cons]
  refine ⟨?_, ?_, ?_, ?_, ?_, ?_, ?_, ?_, ?_, ?_, ?_, ?_, ?_, ?_, ?_, ?_, fun _ h => absurd h List.not_mem_nil⟩ <;>
    exact fun _ _ => ⟨rfl, rfl, rfl, rfl, rfl, rfl⟩

theorem opRowsClcToCpy_describe : ∀ row ∈ opRowsClcToCpy, row.Describes := by
  simp only [opRowsClcToCpy, List.forall_mem_cons]
  refine ⟨?_, ?_, ?_, ?_, ?_, ?_, ?_, ?_, ?_, ?_, ?_, ?_, ?_, ?_, ?_, ?_, ?_, ?_, fun _ h => absurd h List.not_mem_nil⟩ <;>
    exact fun _ _ => ⟨rfl, rfl, rfl, rfl, rfl, rfl⟩

theorem opRowsDecToInc_describe : ∀ row ∈ opRowsDecToInc, row.Describes := by
  simp only [opRowsDecToInc, List.forall_mem_cons]
  refine ⟨?_, ?_, ?_, ?_, ?_, ?_, ?_, ?_, ?_, ?_, ?_, ?_, ?_, ?_, ?_, ?_, ?_, ?_, fun _ h => absurd h List.not_mem_nil⟩ <;>
    exact fun _ _ => ⟨rfl, rfl, rfl, rfl, rfl, rfl⟩

theorem opRowsInxToLdx_describe : ∀ row ∈ opRowsInxToLdx, row.Describes := by
  simp only [opRowsInxToLdx, List.forall_mem_cons]
  refine ⟨?_, ?_, ?_, ?_, ?_, ?_, ?_, ?_, ?_, ?_, ?_, ?_, ?_, ?_, ?_, ?_, ?_, ?_, fun _ h => absurd h List.not_mem_nil⟩ <;>
    exact fun _ _ => ⟨rfl, rfl, rfl, rfl, rfl, rfl⟩

theorem opRowsLdyToOra_describe : ∀ row ∈ opRowsLdyToOra, row.Describes := by
  simp only [opRowsLdyToOra, List.forall_mem_cons]
  refine ⟨?_, ?_, ?_, ?_, ?_, ?_, ?_, ?_, ?_, ?_, ?_, ?_, ?_, ?_, ?_, ?_, ?_, ?_, ?_, fun _ h => absurd h List.not_mem_nil⟩ <;>
    exact fun _ _ => ⟨rfl, rfl, rfl, rfl, rfl, rfl⟩

theorem opRowsPhaToRts_describe : ∀ row ∈ opRowsPhaToRts, row.Describes := by
  simp only [opRowsPhaToRts, List.forall_mem_cons]
  refine ⟨?_, ?_, ?_, ?_, ?_, ?_, ?_, ?_, ?_, ?_, ?_, ?_, ?_, ?_, ?_, ?_, fun _ h => absurd h List.not_mem_nil⟩ <;>
    exact fun _ _ => ⟨rfl, rfl, rfl, rfl, rfl, rfl⟩

theorem opRowsSbcToSta_describe : ∀ row ∈ opRowsSbcToSta, row.Describes := by
  simp only [opRowsSbcToSta, List.forall_mem_cons]
  refine ⟨?_, ?_, ?_, ?_, ?_, ?_, ?_, ?_, ?_, ?_, ?_, ?_, ?_, ?_, ?_, ?_, ?_, ?_, fun _ h => absurd h List.not_mem_nil⟩ <;>
    exact fun _ _ => ⟨rfl, rfl, rfl, rfl, rfl, rfl⟩

theorem opRowsStxToTya_describe : ∀ row ∈ opRowsStxToTya, row.Describes := by
  simp only [opRowsStxToTya, List.forall_mem_cons]
  refine ⟨?_, ?_, ?_, ?_, ?_, ?_, ?_, ?_, ?_, ?_, ?_, ?_, fun _ h => absurd h List.not_mem_nil⟩ <;>
    exact fun _ _ => ⟨rfl, rfl, rfl, rfl, rfl, rfl⟩

/-- Every row of the table describes what it builds. -/
theorem opTable_describes {row : OpRow} (h : row ∈ opTable) : row.Describes := by
  simp only [opTable, List.mem_append] at h
  rcases h with (((((((h | h) | h) | h) | h) | h) | h) | h) | h
  · exact opRowsAdcToAnd_describe row h
  · exact opRowsAslToBvs_describe row h
  · exact opRowsClcToCpy_describe row h
  · exact opRowsDecToInc_describe row h
  · exact opRowsInxToLdx_describe row h
  · exact opRowsLdyToOra_describe row h
  · exact opRowsPhaToRts_describe row h
  · exact opRowsSbcToSta_describe row h
  · exact opRowsStxToTya_describe row h

/-- What a row builds depends on the operand bytes alone. -/
theorem Build.apply_congr {b : Build} {b1 b2 c1 c2 : Byte} (h : b.operandBytes b1 b2 = b.operandBytes c1 c2) :
    b.apply b1 b2 = b.apply c1 c2 := by
  cases b with
  | plain f => rfl
  | byte f => simp only [Build.operandBytes, List.cons.injEq, and_true] at h; simp [Build.apply, h]
  | word f =>
    simp only [Build.operandBytes, lowByte_wordOf, highByte_wordOf, List.cons.injEq, and_true] at h
    simp [Build.apply, h]

/-- Everything a row can take from bytes: the instruction of the operand bytes it begins with. -/
theorem Build.take_some {b : Build} {bs rest : List Byte} {i : Instr} (h : b.take bs = some (i, rest)) :
    ∃ b1 b2, i = b.apply b1 b2 ∧ bs = b.operandBytes b1 b2 ++ rest := by
  cases b with
  | plain f => cases h; exact ⟨0, 0, rfl, rfl⟩
  | byte f =>
    match bs, h with
    | b1 :: bs, h => cases h; exact ⟨b1, 0, rfl, rfl⟩
  | word f =>
    match bs, h with
    | b1 :: b2 :: bs, h => cases h; exact ⟨b1, b2, rfl, by simp [Build.operandBytes]⟩

/-- Everything decode can give: the instruction of a row, its opcode byte first and its operand bytes
after it. -/
theorem decode_cases {bs rest : List Byte} {i : Instr} (h : decode bs = .ok (i, rest)) :
    ∃ row ∈ opTable, ∃ b1 b2, opRow? row.opcode = some row ∧ i = row.build.apply b1 b2 ∧
      bs = row.opcode :: (row.build.operandBytes b1 b2 ++ rest) := by
  cases bs with
  | nil => cases h
  | cons op bs =>
    simp only [decode] at h
    split at h
    · cases h
    · rename_i row hr
      obtain ⟨hm, ho⟩ := opRow?_mem hr
      split at h
      · cases h
      · rename_i f ht
        cases h
        obtain ⟨b1, b2, hi, hb⟩ := Build.take_some ht
        exact ⟨row, hm, b1, b2, by rw [ho, hr], hi, by rw [hb, ho]⟩

end Sys2Proof
end

