-- ==== Sys2Proof/Laws/Flags.lean ====
section
/-! SUPPORT. What each flag reads after each flag computation. -/

namespace Sys2Proof.Machine

/-- Writing a flag changes that flag alone. -/
theorem getFlag_setFlag (p : Byte) (f g : Flag) (b : Bool) :
    getFlag (setFlag p f b) g = if g = f then b else getFlag p g := by
  cases f <;> cases g <;> cases b <;> simp [getFlag, setFlag, flagMask, flagBit]

@[simp] theorem getFlag_setFlag_same (p : Byte) (f : Flag) (b : Bool) : getFlag (setFlag p f b) f = b := by
  simp [getFlag_setFlag]

theorem getFlag_setFlag_ne (p : Byte) {f g : Flag} (b : Bool) (h : g ≠ f) :
    getFlag (setFlag p f b) g = getFlag p g := by simp [getFlag_setFlag, h]

/-- Two status bytes with the same eight flags are the same. -/
theorem status_ext {p q : Byte} (h : ∀ f, getFlag p f = getFlag q f) : p = q := by
  ext i hi
  have hf : ∃ f, flagBit f = i := by
    match i, hi with
    | 0, _ => exact ⟨.c, rfl⟩
    | 1, _ => exact ⟨.z, rfl⟩
    | 2, _ => exact ⟨.i, rfl⟩
    | 3, _ => exact ⟨.d, rfl⟩
    | 4, _ => exact ⟨.b, rfl⟩
    | 5, _ => exact ⟨.b2, rfl⟩
    | 6, _ => exact ⟨.v, rfl⟩
    | 7, _ => exact ⟨.n, rfl⟩
  obtain ⟨f, hf⟩ := hf
  have := h f
  simp only [getFlag, hf] at this
  simpa [BitVec.getLsbD_eq_getElem hi] using this

/-- SetZN writes Z and N and keeps the other six flags. -/
theorem getFlag_setZN (p v : Byte) (f : Flag) :
    getFlag (setZN p v) f = if f = .n then v.getLsbD 7 else if f = .z then v == 0 else getFlag p f := by
  simp only [setZN, getFlag_setFlag]

theorem getFlag_addStatus (p a m : Byte) (f : Flag) :
    getFlag (addStatus p a m) f =
      if f = .n then (addResult a m (getFlag p .c)).getLsbD 7
      else if f = .z then addResult a m (getFlag p .c) == 0
      else if f = .v then addOverflow a m (getFlag p .c)
      else if f = .c then addCarry a m (getFlag p .c)
      else getFlag p f := by
  simp only [addStatus, getFlag_setZN, getFlag_setFlag]

theorem getFlag_compareStatus (p r m : Byte) (f : Flag) :
    getFlag (compareStatus p r m) f =
      if f = .n then (r - m).getLsbD 7
      else if f = .z then r - m == 0
      else if f = .c then decide (m.toNat ≤ r.toNat)
      else getFlag p f := by
  simp only [compareStatus, getFlag_setZN, getFlag_setFlag]

theorem getFlag_bitStatus (p a m : Byte) (f : Flag) :
    getFlag (bitStatus p a m) f =
      if f = .v then m.getLsbD 6
      else if f = .n then m.getLsbD 7
      else if f = .z then a &&& m == 0
      else getFlag p f := by
  simp only [bitStatus, getFlag_setFlag]

theorem getFlag_shiftStatus (k : Shift) (p v : Byte) (f : Flag) :
    getFlag (shiftStatus k p v) f =
      if f = .n then (shiftResult k v (getFlag p .c)).getLsbD 7
      else if f = .z then shiftResult k v (getFlag p .c) == 0
      else if f = .c then shiftCarry k v
      else getFlag p f := by
  simp only [shiftStatus, getFlag_setZN, getFlag_setFlag]

/-- The byte PHP pushes: Break and Break2 are 1, the other six flags are P's. -/
theorem getFlag_pushedStatus (p : Byte) (f : Flag) :
    getFlag (pushedStatus p) f = if f = .b ∨ f = .b2 then true else getFlag p f := by
  revert p; cases f <;> decide

/-- What PLP and RTI restore: Break is 0, Break2 is 1, the other six flags are the popped byte's. -/
theorem getFlag_pulledStatus (v : Byte) (f : Flag) :
    getFlag (pulledStatus v) f = if f = .b then false else if f = .b2 then true else getFlag v f := by
  revert v; cases f <;> decide

/-- SBC's transformed operand is the complement. -/
theorem subOperand_eq (m : Byte) : subOperand m = ~~~m := by revert m; decide

end Sys2Proof.Machine
end

