-- ==== Sys2Proof/Laws/Memory.lean ====
section
/-! SUPPORT. The laws of memory as a list: what a read gives after a write, and that every operation
keeps the canonical form. -/

namespace Sys2Proof.Machine

theorem Memory.peek_erase (m : Memory) (a b : Nat) :
    Memory.peek (Memory.erase m a) b = if b = a then Config.unlistedByte else Memory.peek m b := by
  induction m with
  | nil => simp [Memory.erase, Memory.peek]
  | cons c rest ih =>
    obtain ⟨k, v⟩ := c
    by_cases hk : k = a
    · subst hk
      rw [show Memory.erase ((k, v) :: rest) k = Memory.erase rest k by simp [Memory.erase], ih]
      by_cases hb : b = k
      · simp [hb]
      · simp [hb, Ne.symm hb, Memory.peek]
    · rw [show Memory.erase ((k, v) :: rest) a = (k, v) :: Memory.erase rest a by simp [Memory.erase, hk]]
      simp only [Memory.peek, ih]
      by_cases hb : k = b
      · subst hb; simp [hk]
      · simp [hb]

theorem Memory.peek_enter (m : Memory) (a b : Nat) (v : Byte) (h : ∀ c ∈ m, c.1 ≠ a) :
    Memory.peek (Memory.enter m a v) b = if b = a then v else Memory.peek m b := by
  induction m with
  | nil => simp only [Memory.enter, Memory.peek, eq_comm (a := a)]
  | cons c rest ih =>
    obtain ⟨k, w⟩ := c
    have hk : k ≠ a := h (k, w) (by simp)
    have hr : ∀ c ∈ rest, c.1 ≠ a := fun c hc => h c (by simp [hc])
    simp only [Memory.enter]
    by_cases hb : b = a
    · subst hb
      split <;> simp [Memory.peek, hk, ih hr]
    · split <;> simp [Memory.peek, hb, Ne.symm hb, ih hr]

/-- A read after a write: the value written at its address, the old byte everywhere else. -/
theorem Memory.peek_poke (m : Memory) (a b : Nat) (v : Byte) :
    Memory.peek (Memory.poke m a v) b = if b = a then v else Memory.peek m b := by
  unfold Memory.poke
  split
  · rename_i h; rw [Memory.peek_erase, h]
  · rw [Memory.peek_enter, Memory.peek_erase]
    · by_cases hb : b = a <;> simp [hb]
    · intro c hc
      simpa [Memory.erase] using (List.mem_filter.mp hc).2

@[simp] theorem Memory.peek_poke_same (m : Memory) (a : Nat) (v : Byte) : Memory.peek (Memory.poke m a v) a = v := by
  simp [Memory.peek_poke]

theorem Memory.peek_poke_ne (m : Memory) {a b : Nat} (v : Byte) (h : b ≠ a) :
    Memory.peek (Memory.poke m a v) b = Memory.peek m b := by simp [Memory.peek_poke, h]

theorem Memory.risingFrom_mono {lo lo' : Nat} (m : Memory) (h : lo' ≤ lo) (hm : Memory.risingFrom lo m = true) :
    Memory.risingFrom lo' m = true := by
  cases m with
  | nil => rfl
  | cons c rest =>
    simp only [Memory.risingFrom, Bool.and_eq_true, decide_eq_true_eq] at hm ⊢
    exact ⟨by omega, hm.2⟩

theorem Memory.risingFrom_erase (lo : Nat) (m : Memory) (a : Nat) (hm : Memory.risingFrom lo m = true) :
    Memory.risingFrom lo (Memory.erase m a) = true := by
  induction m generalizing lo with
  | nil => rfl
  | cons c rest ih =>
    simp only [Memory.risingFrom, Bool.and_eq_true, decide_eq_true_eq] at hm
    simp only [Memory.erase, List.filter_cons]
    split
    · simp only [Memory.risingFrom, Bool.and_eq_true, decide_eq_true_eq]
      exact ⟨hm.1, ih _ hm.2⟩
    · exact ih _ (Memory.risingFrom_mono rest (by omega) hm.2)

theorem Memory.risingFrom_enter (lo : Nat) (m : Memory) (a : Nat) (v : Byte) (ha : lo ≤ a)
    (hm : Memory.risingFrom lo m = true) (h : ∀ c ∈ m, c.1 ≠ a) :
    Memory.risingFrom lo (Memory.enter m a v) = true := by
  induction m generalizing lo with
  | nil => simp [Memory.enter, Memory.risingFrom, ha]
  | cons c rest ih =>
    obtain ⟨k, w⟩ := c
    have hk : k ≠ a := h (k, w) (by simp)
    simp only [Memory.risingFrom, Bool.and_eq_true, decide_eq_true_eq] at hm
    simp only [Memory.enter]
    split
    · simp only [Memory.risingFrom, Bool.and_eq_true, decide_eq_true_eq]
      exact ⟨ha, by omega, hm.2⟩
    · simp only [Memory.risingFrom, Bool.and_eq_true, decide_eq_true_eq]
      exact ⟨hm.1, ih _ (by omega) hm.2 fun c hc => h c (by simp [hc])⟩

theorem Memory.mem_enter {m : Memory} {a : Nat} {v : Byte} {c : Host.Cell} (h : c ∈ Memory.enter m a v) :
    c = (a, v) ∨ c ∈ m := by
  induction m with
  | nil => simpa [Memory.enter] using h
  | cons d rest ih =>
    obtain ⟨k, w⟩ := d
    simp only [Memory.enter] at h
    split at h
    · simpa using h
    · rcases List.mem_cons.mp h with h | h
      · exact .inr (by simp [h])
      · rcases ih h with h | h
        · exact .inl h
        · exact .inr (by simp [h])

/-- A write to an address that exists keeps the canonical form. -/
theorem Memory.wf_poke (m : Memory) (a : Nat) (v : Byte) (ha : a < memSize) (hm : m.wf = true) :
    (Memory.poke m a v).wf = true := by
  simp only [Memory.wf, Bool.and_eq_true, List.all_eq_true] at hm ⊢
  have he : ∀ c ∈ Memory.erase m a, c ∈ m := fun c hc => (List.mem_filter.mp hc).1
  unfold Memory.poke
  split
  · exact ⟨Memory.risingFrom_erase 0 m a hm.1, fun c hc => hm.2 c (he c hc)⟩
  · rename_i hv
    refine ⟨Memory.risingFrom_enter 0 _ a v (Nat.zero_le _) (Memory.risingFrom_erase 0 m a hm.1) ?_, ?_⟩
    · intro c hc
      simpa [Memory.erase] using (List.mem_filter.mp hc).2
    · intro c hc
      rcases Memory.mem_enter hc with rfl | hc
      · simp [ha, hv]
      · exact hm.2 c (he c hc)

end Sys2Proof.Machine
end

