-- ==== Sys2Proof/Laws/State.lean ====
section
/-! SUPPORT. One lemma per field per update of State, true by rfl: no later proof unfolds an update. -/

namespace Sys2Proof.Machine

@[simp] theorem State.setMem_a (s : State) (m : Memory) : (s.setMem m).a = s.a := rfl
@[simp] theorem State.setMem_x (s : State) (m : Memory) : (s.setMem m).x = s.x := rfl
@[simp] theorem State.setMem_y (s : State) (m : Memory) : (s.setMem m).y = s.y := rfl
@[simp] theorem State.setMem_sp (s : State) (m : Memory) : (s.setMem m).sp = s.sp := rfl
@[simp] theorem State.setMem_p (s : State) (m : Memory) : (s.setMem m).p = s.p := rfl
@[simp] theorem State.setMem_pc (s : State) (m : Memory) : (s.setMem m).pc = s.pc := rfl
@[simp] theorem State.setMem_mem (s : State) (m : Memory) : (s.setMem m).mem = m := rfl
@[simp] theorem State.setMem_run (s : State) (m : Memory) : (s.setMem m).run = s.run := rfl

@[simp] theorem State.setPc_a (s : State) (w : Word) : (s.setPc w).a = s.a := rfl
@[simp] theorem State.setPc_x (s : State) (w : Word) : (s.setPc w).x = s.x := rfl
@[simp] theorem State.setPc_y (s : State) (w : Word) : (s.setPc w).y = s.y := rfl
@[simp] theorem State.setPc_sp (s : State) (w : Word) : (s.setPc w).sp = s.sp := rfl
@[simp] theorem State.setPc_p (s : State) (w : Word) : (s.setPc w).p = s.p := rfl
@[simp] theorem State.setPc_pc (s : State) (w : Word) : (s.setPc w).pc = w := rfl
@[simp] theorem State.setPc_mem (s : State) (w : Word) : (s.setPc w).mem = s.mem := rfl
@[simp] theorem State.setPc_run (s : State) (w : Word) : (s.setPc w).run = s.run := rfl

@[simp] theorem State.setP_a (s : State) (v : Byte) : (s.setP v).a = s.a := rfl
@[simp] theorem State.setP_x (s : State) (v : Byte) : (s.setP v).x = s.x := rfl
@[simp] theorem State.setP_y (s : State) (v : Byte) : (s.setP v).y = s.y := rfl
@[simp] theorem State.setP_sp (s : State) (v : Byte) : (s.setP v).sp = s.sp := rfl
@[simp] theorem State.setP_p (s : State) (v : Byte) : (s.setP v).p = v := rfl
@[simp] theorem State.setP_pc (s : State) (v : Byte) : (s.setP v).pc = s.pc := rfl
@[simp] theorem State.setP_mem (s : State) (v : Byte) : (s.setP v).mem = s.mem := rfl
@[simp] theorem State.setP_run (s : State) (v : Byte) : (s.setP v).run = s.run := rfl

@[simp] theorem State.setRun_a (s : State) (r : RunState) : (s.setRun r).a = s.a := rfl
@[simp] theorem State.setRun_x (s : State) (r : RunState) : (s.setRun r).x = s.x := rfl
@[simp] theorem State.setRun_y (s : State) (r : RunState) : (s.setRun r).y = s.y := rfl
@[simp] theorem State.setRun_sp (s : State) (r : RunState) : (s.setRun r).sp = s.sp := rfl
@[simp] theorem State.setRun_p (s : State) (r : RunState) : (s.setRun r).p = s.p := rfl
@[simp] theorem State.setRun_pc (s : State) (r : RunState) : (s.setRun r).pc = s.pc := rfl
@[simp] theorem State.setRun_mem (s : State) (r : RunState) : (s.setRun r).mem = s.mem := rfl
@[simp] theorem State.setRun_run (s : State) (r : RunState) : (s.setRun r).run = r := rfl

@[simp] theorem State.setReg_a_a (s : State) (v : Byte) : (s.setReg .a v).a = v := rfl
@[simp] theorem State.setReg_a_x (s : State) (v : Byte) : (s.setReg .a v).x = s.x := rfl
@[simp] theorem State.setReg_a_y (s : State) (v : Byte) : (s.setReg .a v).y = s.y := rfl
@[simp] theorem State.setReg_a_sp (s : State) (v : Byte) : (s.setReg .a v).sp = s.sp := rfl
@[simp] theorem State.setReg_a_p (s : State) (v : Byte) : (s.setReg .a v).p = s.p := rfl
@[simp] theorem State.setReg_a_pc (s : State) (v : Byte) : (s.setReg .a v).pc = s.pc := rfl
@[simp] theorem State.setReg_a_mem (s : State) (v : Byte) : (s.setReg .a v).mem = s.mem := rfl
@[simp] theorem State.setReg_a_run (s : State) (v : Byte) : (s.setReg .a v).run = s.run := rfl

@[simp] theorem State.setReg_x_a (s : State) (v : Byte) : (s.setReg .x v).a = s.a := rfl
@[simp] theorem State.setReg_x_x (s : State) (v : Byte) : (s.setReg .x v).x = v := rfl
@[simp] theorem State.setReg_x_y (s : State) (v : Byte) : (s.setReg .x v).y = s.y := rfl
@[simp] theorem State.setReg_x_sp (s : State) (v : Byte) : (s.setReg .x v).sp = s.sp := rfl
@[simp] theorem State.setReg_x_p (s : State) (v : Byte) : (s.setReg .x v).p = s.p := rfl
@[simp] theorem State.setReg_x_pc (s : State) (v : Byte) : (s.setReg .x v).pc = s.pc := rfl
@[simp] theorem State.setReg_x_mem (s : State) (v : Byte) : (s.setReg .x v).mem = s.mem := rfl
@[simp] theorem State.setReg_x_run (s : State) (v : Byte) : (s.setReg .x v).run = s.run := rfl

@[simp] theorem State.setReg_y_a (s : State) (v : Byte) : (s.setReg .y v).a = s.a := rfl
@[simp] theorem State.setReg_y_x (s : State) (v : Byte) : (s.setReg .y v).x = s.x := rfl
@[simp] theorem State.setReg_y_y (s : State) (v : Byte) : (s.setReg .y v).y = v := rfl
@[simp] theorem State.setReg_y_sp (s : State) (v : Byte) : (s.setReg .y v).sp = s.sp := rfl
@[simp] theorem State.setReg_y_p (s : State) (v : Byte) : (s.setReg .y v).p = s.p := rfl
@[simp] theorem State.setReg_y_pc (s : State) (v : Byte) : (s.setReg .y v).pc = s.pc := rfl
@[simp] theorem State.setReg_y_mem (s : State) (v : Byte) : (s.setReg .y v).mem = s.mem := rfl
@[simp] theorem State.setReg_y_run (s : State) (v : Byte) : (s.setReg .y v).run = s.run := rfl

@[simp] theorem State.setReg_s_a (s : State) (v : Byte) : (s.setReg .s v).a = s.a := rfl
@[simp] theorem State.setReg_s_x (s : State) (v : Byte) : (s.setReg .s v).x = s.x := rfl
@[simp] theorem State.setReg_s_y (s : State) (v : Byte) : (s.setReg .s v).y = s.y := rfl
@[simp] theorem State.setReg_s_sp (s : State) (v : Byte) : (s.setReg .s v).sp = v := rfl
@[simp] theorem State.setReg_s_p (s : State) (v : Byte) : (s.setReg .s v).p = s.p := rfl
@[simp] theorem State.setReg_s_pc (s : State) (v : Byte) : (s.setReg .s v).pc = s.pc := rfl
@[simp] theorem State.setReg_s_mem (s : State) (v : Byte) : (s.setReg .s v).mem = s.mem := rfl
@[simp] theorem State.setReg_s_run (s : State) (v : Byte) : (s.setReg .s v).run = s.run := rfl

@[simp] theorem State.reg_a (s : State) : s.reg .a = s.a := rfl
@[simp] theorem State.reg_x (s : State) : s.reg .x = s.x := rfl
@[simp] theorem State.reg_y (s : State) : s.reg .y = s.y := rfl
@[simp] theorem State.reg_s (s : State) : s.reg .s = s.sp := rfl

/-- A register write leaves every field but the registers alone, whichever register it is. -/
@[simp] theorem State.setReg_p (s : State) (r : Reg) (v : Byte) : (s.setReg r v).p = s.p := by cases r <;> rfl
@[simp] theorem State.setReg_pc (s : State) (r : Reg) (v : Byte) : (s.setReg r v).pc = s.pc := by cases r <;> rfl
@[simp] theorem State.setReg_mem (s : State) (r : Reg) (v : Byte) : (s.setReg r v).mem = s.mem := by cases r <;> rfl
@[simp] theorem State.setReg_run (s : State) (r : Reg) (v : Byte) : (s.setReg r v).run = s.run := by cases r <;> rfl

/-- Reading a register after a write of one. -/
theorem State.reg_setReg (s : State) (r q : Reg) (v : Byte) :
    (s.setReg r v).reg q = if q = r then v else s.reg q := by cases r <;> cases q <;> rfl

@[simp] theorem State.reg_setMem (s : State) (m : Memory) (r : Reg) : (s.setMem m).reg r = s.reg r := by cases r <;> rfl
@[simp] theorem State.reg_setPc (s : State) (w : Word) (r : Reg) : (s.setPc w).reg r = s.reg r := by cases r <;> rfl
@[simp] theorem State.reg_setP (s : State) (v : Byte) (r : Reg) : (s.setP v).reg r = s.reg r := by cases r <;> rfl
@[simp] theorem State.reg_setRun (s : State) (q : RunState) (r : Reg) : (s.setRun q).reg r = s.reg r := by cases r <;> rfl

@[simp] theorem State.flag_setMem (s : State) (m : Memory) (f : Flag) : (s.setMem m).flag f = s.flag f := rfl
@[simp] theorem State.flag_setPc (s : State) (w : Word) (f : Flag) : (s.setPc w).flag f = s.flag f := rfl
@[simp] theorem State.flag_setRun (s : State) (r : RunState) (f : Flag) : (s.setRun r).flag f = s.flag f := rfl
@[simp] theorem State.flag_setP (s : State) (v : Byte) (f : Flag) : (s.setP v).flag f = getFlag v f := rfl
@[simp] theorem State.flag_setReg (s : State) (r : Reg) (v : Byte) (f : Flag) : (s.setReg r v).flag f = s.flag f := by
  cases r <;> rfl

@[simp] theorem setResult_p (r : Reg) (v : Byte) (s : State) : (setResult r v s).p = setZN s.p v := rfl
@[simp] theorem setResult_pc (r : Reg) (v : Byte) (s : State) : (setResult r v s).pc = s.pc := by simp [setResult]
@[simp] theorem setResult_mem (r : Reg) (v : Byte) (s : State) : (setResult r v s).mem = s.mem := by simp [setResult]
@[simp] theorem setResult_run (r : Reg) (v : Byte) (s : State) : (setResult r v s).run = s.run := by simp [setResult]

@[simp] theorem raise_a (c : FatalCondition) (s : State) : (raise c s).a = s.a := rfl
@[simp] theorem raise_x (c : FatalCondition) (s : State) : (raise c s).x = s.x := rfl
@[simp] theorem raise_y (c : FatalCondition) (s : State) : (raise c s).y = s.y := rfl
@[simp] theorem raise_sp (c : FatalCondition) (s : State) : (raise c s).sp = s.sp := rfl
@[simp] theorem raise_p (c : FatalCondition) (s : State) : (raise c s).p = s.p := rfl
@[simp] theorem raise_pc (c : FatalCondition) (s : State) : (raise c s).pc = s.pc := rfl
@[simp] theorem raise_mem (c : FatalCondition) (s : State) : (raise c s).mem = s.mem := rfl
@[simp] theorem raise_run (c : FatalCondition) (s : State) : (raise c s).run = .faulted c := rfl

end Sys2Proof.Machine
end

