-- ==== Sys2Proof/Laws/Ops.lean ====
section
/-! SUPPORT. One lemma per shared operation: everything it can do. -/

namespace Sys2Proof.Machine

/-! ## Addresses -/

theorem present_iff (a : Word) : present a = true ↔ a ≠ 0xFFFF#16 := by
  have h : a = 0xFFFF#16 ↔ a.toNat = 65535 :=
    ⟨fun h => by simp [h], fun h => BitVec.eq_of_toNat_eq (by simpa using h)⟩
  have := a.isLt
  rw [ne_eq, h, present, memSize, decide_eq_true_eq]
  omega

theorem not_present : present 0xFFFF#16 = false := rfl

theorem zext16_toNat (b : Byte) : (zext16 b).toNat = b.toNat := by
  have := b.isLt
  simp only [zext16, BitVec.truncate_eq_setWidth, BitVec.toNat_setWidth]
  omega

theorem present_zext16 (b : Byte) : present (zext16 b) = true := by
  have := b.isLt
  simp only [present, memSize, decide_eq_true_eq, zext16_toNat]
  omega

theorem stackAddress_toNat (s : State) : (stackAddress s).toNat = 256 + s.sp.toNat := by
  have := s.sp.isLt
  rw [stackAddress, BitVec.toNat_add, zext16_toNat, show stackBase.toNat = 256 from rfl]
  omega

theorem present_stackAddress (s : State) : present (stackAddress s) = true := by
  have := s.sp.isLt
  simp only [present, memSize, decide_eq_true_eq, stackAddress_toNat]
  omega

/-! ## Reads -/

/-- A read gives the byte of an address that exists, and raises at 0xFFFF. -/
theorem memRead_eq (s : State) (a : Word) :
    memRead s a = if a = 0xFFFF#16 then .error (.outOfRangeAddress 0xFFFF#16) else .ok (s.mem.peek a.toNat) := by
  by_cases h : a = 0xFFFF#16
  · subst h; rfl
  · simp [memRead, (present_iff a).2 h, h]

theorem memRead_of_ne {s : State} {a : Word} (h : a ≠ 0xFFFF#16) : memRead s a = .ok (s.mem.peek a.toNat) := by
  simp [memRead_eq, h]

/-- Reads look at memory alone. -/
theorem memRead_congr {s t : State} (h : t.mem = s.mem) (a : Word) : memRead t a = memRead s a := by
  simp [memRead_eq, h]

theorem memRead16_congr {s t : State} (h : t.mem = s.mem) (a : Word) : memRead16 t a = memRead16 s a := by
  simp [memRead16, memRead_congr h]

/-- A read can raise nothing but OutOfRangeAddress of 0xFFFF. -/
theorem memRead_error {s : State} {a : Word} {c : FatalCondition} (h : memRead s a = .error c) :
    c = .outOfRangeAddress 0xFFFF#16 := by
  rw [memRead_eq] at h
  split at h
  · simpa using h.symm
  · cases h

theorem memRead16_error {s : State} {a : Word} {c : FatalCondition} (h : memRead16 s a = .error c) :
    c = .outOfRangeAddress 0xFFFF#16 := by
  unfold memRead16 at h
  split at h
  · rename_i h1; cases h; exact memRead_error h1
  · split at h
    · rename_i h1; cases h; exact memRead_error h1
    · cases h

theorem memRead16_eq {s : State} {a : Word} (h : a ≠ 0xFFFF#16) (h' : a + 1#16 ≠ 0xFFFF#16) :
    memRead16 s a = .ok (wordOf (s.mem.peek (a + 1#16).toNat) (s.mem.peek a.toNat)) := by
  simp [memRead16, memRead_of_ne h, memRead_of_ne h']

/-! ## Writes -/

theorem memWrite_eq (s : State) (a : Word) (v : Byte) :
    memWrite s a v = if a = 0xFFFF#16 then .error (.outOfRangeAddress 0xFFFF#16)
      else .ok (s.setMem (s.mem.poke a.toNat v)) := by
  by_cases h : a = 0xFFFF#16
  · subst h; rfl
  · simp [memWrite, (present_iff a).2 h, h]

/-- A read after a write. -/
theorem memRead_poke (s : State) (a b : Word) (v : Byte) (h : a ≠ 0xFFFF#16) :
    memRead (s.setMem (s.mem.poke a.toNat v)) b = if b = a then .ok v else memRead s b := by
  by_cases hb : b = a
  · subst hb; simp [memRead_eq, h]
  · have : b.toNat ≠ a.toNat := fun e => hb (BitVec.eq_of_toNat_eq e)
    simp [memRead_eq, hb, Memory.peek_poke_ne _ _ this]

/-! ## Going on or taking a fatal condition -/

@[simp] theorem withValue_ok {α : Type} (v : α) (s : State) (k : α → Result) : withValue (.ok v) s k = k v := rfl

@[simp] theorem withValue_error {α : Type} (c : FatalCondition) (s : State) (k : α → Result) :
    withValue (.error c) s k = .next (raise c s) := rfl

/-- Everything `withValue` can do when it answers a next state. -/
theorem withValue_next {α : Type} {r : Except FatalCondition α} {s t : State} {k : α → Result}
    (h : withValue r s k = .next t) : (∃ v, r = .ok v ∧ k v = .next t) ∨ ∃ c, r = .error c ∧ t = raise c s := by
  cases r with
  | ok v => exact .inl ⟨v, rfl, h⟩
  | error c => exact .inr ⟨c, rfl, by simpa using h.symm⟩

/-- What a write-and-end can do. -/
theorem writeTo_eq (a : Word) (v : Byte) (s : State) :
    writeTo a v s = if a = 0xFFFF#16 then .next (raise (.outOfRangeAddress 0xFFFF#16) s)
      else .next (s.setMem (s.mem.poke a.toNat v)) := by
  simp only [writeTo, memWrite_eq]
  split <;> rfl

/-! ## The stack -/

@[simp] theorem push_a (v : Byte) (s : State) : (push v s).a = s.a := rfl
@[simp] theorem push_x (v : Byte) (s : State) : (push v s).x = s.x := rfl
@[simp] theorem push_y (v : Byte) (s : State) : (push v s).y = s.y := rfl
@[simp] theorem push_sp (v : Byte) (s : State) : (push v s).sp = s.sp - 1 := rfl
@[simp] theorem push_p (v : Byte) (s : State) : (push v s).p = s.p := rfl
@[simp] theorem push_pc (v : Byte) (s : State) : (push v s).pc = s.pc := rfl
@[simp] theorem push_run (v : Byte) (s : State) : (push v s).run = s.run := rfl
@[simp] theorem push_mem (v : Byte) (s : State) : (push v s).mem = s.mem.poke (stackAddress s).toNat v := rfl

@[simp] theorem popped_a (s : State) : (popped s).a = s.a := rfl
@[simp] theorem popped_x (s : State) : (popped s).x = s.x := rfl
@[simp] theorem popped_y (s : State) : (popped s).y = s.y := rfl
@[simp] theorem popped_sp (s : State) : (popped s).sp = s.sp + 1 := rfl
@[simp] theorem popped_p (s : State) : (popped s).p = s.p := rfl
@[simp] theorem popped_pc (s : State) : (popped s).pc = s.pc := rfl
@[simp] theorem popped_mem (s : State) : (popped s).mem = s.mem := rfl
@[simp] theorem popped_run (s : State) : (popped s).run = s.run := rfl

/-- What a push leaves in memory: the byte at the old stack address, every other address as before. -/
theorem memRead_push (v : Byte) (s : State) (a : Word) :
    memRead (push v s) a = if a = stackAddress s then .ok v else memRead s a := by
  rw [← memRead_poke s (stackAddress s) a v ((present_iff _).1 (present_stackAddress s))]
  exact memRead_congr rfl a

/-! ## The canonical form of memory -/

/-- A byte write keeps the canonical form. -/
theorem memWrite_wf {s t : State} {a : Word} {v : Byte} (h : memWrite s a v = .ok t) (hs : s.mem.wf = true) :
    t.mem.wf = true := by
  unfold memWrite at h
  split at h
  · cases h
    exact Memory.wf_poke _ _ _ (by simpa [present] using ‹present a = true›) hs
  · cases h

/-- A word write keeps the canonical form, whether or not it raises. -/
theorem memWrite16_wf {s t : State} {a w : Word} (h : memWrite16 s a w = .next t) (hs : s.mem.wf = true) :
    t.mem.wf = true := by
  rcases withValue_next h with ⟨u, hu, h⟩ | ⟨c, _, rfl⟩
  · rcases withValue_next h with ⟨v, hv, h⟩ | ⟨c, _, rfl⟩
    · cases h; exact memWrite_wf hv (memWrite_wf hu hs)
    · exact (memWrite_wf hu hs : u.mem.wf = true)
  · exact hs

/-- A push keeps the canonical form. -/
theorem push_wf (v : Byte) {s : State} (hs : s.mem.wf = true) : (push v s).mem.wf = true :=
  Memory.wf_poke _ _ _ (by simpa [present] using present_stackAddress s) hs

/-! ## Operand bytes and effective addresses -/

theorem operandByte_eq (b : Byte) (s : State) :
    operandByte b s = if s.pc = 0xFFFF#16 then .error (.outOfRangeAddress 0xFFFF#16) else .ok b := by
  by_cases h : s.pc = 0xFFFF#16
  · simp [operandByte, h, present, memSize]
  · simp [operandByte, (present_iff _).2 h, h]

theorem operandWord_eq (w : Word) (s : State) :
    operandWord w s = if s.pc = 0xFFFF#16 ∨ s.pc + 1#16 = 0xFFFF#16 then .error (.outOfRangeAddress 0xFFFF#16) else .ok w := by
  by_cases h : s.pc = 0xFFFF#16
  · simp [operandWord, h, present, memSize]
  · by_cases h' : s.pc + 1#16 = 0xFFFF#16
    · simp [operandWord, (present_iff _).2 h, h', not_present]
    · simp [operandWord, (present_iff _).2 h, (present_iff _).2 h', h, h']

/-- The operand has an addressing mode (R122). -/
def resolvable (o : Operand) : Bool := !(o.form.mode == .noneAddressing)

/-- The resolver raises nothing but OutOfRangeAddress of 0xFFFF on an operand with a mode. -/
theorem resolve_error {o : Operand} {s : State} {c : FatalCondition} (ho : resolvable o = true)
    (h : resolve o s = .error c) : c = .outOfRangeAddress 0xFFFF#16 := by
  cases o <;> simp [resolvable, Operand.form, Form.mode] at ho <;>
    simp only [resolve, operandByte_eq, operandWord_eq] at h <;> first | cases h | (split at h <;> simp_all [Except.map])

theorem readOperand_error {o : Operand} {s : State} {c : FatalCondition} (ho : resolvable o = true)
    (h : readOperand o s = .error c) : c = .outOfRangeAddress 0xFFFF#16 := by
  unfold readOperand at h
  split at h
  · rw [operandByte_eq] at h
    split at h
    · simpa using h.symm
    · cases h
  · split at h
    · exact memRead_error h
    · rename_i h1; cases h; exact resolve_error ho h1

theorem jumpPointer_error {p : Word} {s : State} {c : FatalCondition} (h : jumpPointer p s = .error c) :
    c = .outOfRangeAddress 0xFFFF#16 := by
  unfold jumpPointer at h
  split at h
  · split at h
    · rename_i h1; cases h; exact memRead_error h1
    · split at h
      · rename_i h1; cases h; exact memRead_error h1
      · cases h
  · exact memRead16_error h

/-! ## Read, modify, write -/

/-- Everything `modify` can do: raise before anything has changed, or write the new value and P. -/
theorem modify_cases {o : Operand} (ho : resolvable o = true) (value status : Byte → Byte) (s : State) :
    modify o value status s = .next (raise (.outOfRangeAddress 0xFFFF#16) s) ∨
      ∃ ea m, ea ≠ 0xFFFF#16 ∧ resolve o s = .ok ea ∧ memRead s ea = .ok m ∧
        modify o value status s = .next ((s.setMem (s.mem.poke ea.toNat (value m))).setP (status m)) := by
  unfold modify
  cases hr : resolve o s with
  | error c => exact .inl (by rw [resolve_error ho hr]; rfl)
  | ok ea =>
    by_cases h : ea = 0xFFFF#16
    · subst h; exact .inl rfl
    · exact .inr ⟨ea, s.mem.peek ea.toNat, h, rfl, memRead_of_ne h, by simp [memRead_of_ne h, memWrite_eq, h]⟩

end Sys2Proof.Machine
end

