-- ==== Sys2Proof/Laws/Handlers.lean ====
section
/-! SUPPORT. The handlers by mnemonic: exec of an instruction is one shared handler applied to its operand,
and one lemma per shared handler says everything it can do. -/

namespace Sys2Proof.Machine

/-! ## exec as 56 handlers -/

/-- The displacement of a branch. -/
def offsetOf : Operand → Byte
  | .relative off => off
  | _ => 0

/-- A shift's two kinds of form as one. -/
def shift (k : Shift) (o : Operand) (s : State) : Result :=
  match o with
  | .accumulator => shiftAccumulator k s
  | o => shiftMemory k o s

/-- The two jumps as one. -/
def jump (o : Operand) (s : State) : Result :=
  match o with
  | .absoluteJump w => execJmpAbs w s
  | .indirectJump w => execJmpInd w s
  | _ => takeFatal .unsupportedAddressingMode s

/-- The handler of a mnemonic, as a function of the operand. -/
def handlerOf : Mnemonic → Operand → State → Result
  | .adc => fun o s => addWithCarry o s
  | .and => fun o s => logic (fun a m => a &&& m) o s
  | .asl => fun o s => shift .asl o s
  | .bcc => fun o s => branch (!s.flag .c) (offsetOf o) s
  | .bcs => fun o s => branch (s.flag .c) (offsetOf o) s
  | .beq => fun o s => branch (s.flag .z) (offsetOf o) s
  | .bit => fun o s => bitTest o s
  | .bmi => fun o s => branch (s.flag .n) (offsetOf o) s
  | .bne => fun o s => branch (!s.flag .z) (offsetOf o) s
  | .bpl => fun o s => branch (!s.flag .n) (offsetOf o) s
  | .brk => fun _ s => .next (s.setRun .halted)
  | .bvc => fun o s => branch (!s.flag .v) (offsetOf o) s
  | .bvs => fun o s => branch (s.flag .v) (offsetOf o) s
  | .clc => fun _ s => writeFlag .c false s
  | .cld => fun _ s => writeFlag .d false s
  | .cli => fun _ s => writeFlag .i false s
  | .clv => fun _ s => writeFlag .v false s
  | .cmp => fun o s => compare .a o s
  | .cpx => fun o s => compare .x o s
  | .cpy => fun o s => compare .y o s
  | .dec => fun o s => modify o (fun m => m - 1) (fun m => setZN s.p (m - 1)) s
  | .dex => fun _ s => decrement .x s
  | .dey => fun _ s => decrement .y s
  | .eor => fun o s => logic (fun a m => a ^^^ m) o s
  | .inc => fun o s => modify o (fun m => m + 1) (fun m => setZN s.p (m + 1)) s
  | .inx => fun _ s => increment .x s
  | .iny => fun _ s => increment .y s
  | .jmp => fun o s => jump o s
  | .jsr => fun _ s => execJsr 0 s
  | .lda => fun o s => load .a o s
  | .ldx => fun o s => load .x o s
  | .ldy => fun o s => load .y o s
  | .lsr => fun o s => shift .lsr o s
  | .nop => fun _ s => .next s
  | .ora => fun o s => logic (fun a m => a ||| m) o s
  | .pha => fun _ s => .next (push s.a s)
  | .php => fun _ s => .next (push (pushedStatus s.p) s)
  | .pla => fun _ s => .next (setResult .a (topByte s) (popped s))
  | .plp => fun _ s => .next ((popped s).setP (pulledStatus (topByte s)))
  | .rol => fun o s => shift .rol o s
  | .ror => fun o s => shift .ror o s
  | .rti => fun _ s => execRti s
  | .rts => fun _ s => execRts s
  | .sbc => fun o s => subtractWithCarry o s
  | .sec => fun _ s => writeFlag .c true s
  | .sed => fun _ s => writeFlag .d true s
  | .sei => fun _ s => writeFlag .i true s
  | .sta => fun o s => store .a o s
  | .stx => fun o s => store .x o s
  | .sty => fun o s => store .y o s
  | .tax => fun _ s => transfer .a .x s
  | .tay => fun _ s => transfer .a .y s
  | .tsx => fun _ s => transfer .s .x s
  | .txa => fun _ s => transfer .x .a s
  | .txs => fun _ s => .next (s.setReg .s s.x)
  | .tya => fun _ s => transfer .y .a s

/-- exec is the handler of the instruction's mnemonic on its operand. -/
theorem exec_eq_handlerOf (i : Instr) (s : State) : exec i s = handlerOf i.mnemonic i.operand s := by
  cases i <;> rfl

/-- The mnemonics whose every operand has an addressing mode. -/
def alwaysResolves (m : Mnemonic) : Bool := !m.neverResolves && !m.isShift

theorem resolvable_of_mnemonic {i : Instr} (h : alwaysResolves i.mnemonic = true) :
    resolvable i.operand = true := by
  cases i <;> first | rfl | cases h

/-- A shift's operand has an addressing mode or is the accumulator. -/
theorem shift_operand {i : Instr} (h : i.mnemonic.isShift = true) :
    i.operand = .accumulator ∨ resolvable i.operand = true ∧ i.operand ≠ .accumulator := by
  cases i <;> first | exact .inl rfl | exact .inr ⟨rfl, nofun⟩ | cases h

/-- The operand of a jump is one of the two jump forms. -/
theorem jump_operand {i : Instr} (h : i.mnemonic = .jmp) :
    (∃ w, i.operand = .absoluteJump w) ∨ ∃ w, i.operand = .indirectJump w := by
  cases i <;> first | exact .inl ⟨_, rfl⟩ | exact .inr ⟨_, rfl⟩ | cases h

/-! ## What each shared handler can do -/

/-- Read the operand and go on, or raise OutOfRangeAddress before anything has changed. -/
theorem withOperand_cases {o : Operand} (ho : resolvable o = true) (s : State) (k : Byte → Result) :
    withValue (readOperand o s) s k = .next (raise (.outOfRangeAddress 0xFFFF#16) s) ∨
      ∃ m, readOperand o s = .ok m ∧ withValue (readOperand o s) s k = k m := by
  cases h : readOperand o s with
  | ok m => exact .inr ⟨m, rfl, rfl⟩
  | error c => exact .inl (by rw [readOperand_error ho h]; rfl)

theorem load_cases {o : Operand} (ho : resolvable o = true) (r : Reg) (s : State) :
    load r o s = .next (raise (.outOfRangeAddress 0xFFFF#16) s) ∨
      ∃ m, readOperand o s = .ok m ∧ load r o s = .next (setResult r m s) := withOperand_cases ho s _

theorem logic_cases {o : Operand} (ho : resolvable o = true) (f : Byte → Byte → Byte) (s : State) :
    logic f o s = .next (raise (.outOfRangeAddress 0xFFFF#16) s) ∨
      ∃ m, readOperand o s = .ok m ∧ logic f o s = .next (setResult .a (f s.a m) s) := withOperand_cases ho s _

theorem bitTest_cases {o : Operand} (ho : resolvable o = true) (s : State) :
    bitTest o s = .next (raise (.outOfRangeAddress 0xFFFF#16) s) ∨
      ∃ m, readOperand o s = .ok m ∧ bitTest o s = .next (s.setP (bitStatus s.p s.a m)) := withOperand_cases ho s _

theorem addWithCarry_cases {o : Operand} (ho : resolvable o = true) (s : State) :
    addWithCarry o s = .next (raise (.outOfRangeAddress 0xFFFF#16) s) ∨
      ∃ m, readOperand o s = .ok m ∧ addWithCarry o s = .next (addTo m s) := withOperand_cases ho s _

theorem subtractWithCarry_cases {o : Operand} (ho : resolvable o = true) (s : State) :
    subtractWithCarry o s = .next (raise (.outOfRangeAddress 0xFFFF#16) s) ∨
      ∃ m, readOperand o s = .ok m ∧ subtractWithCarry o s = .next (addTo (subOperand m) s) := withOperand_cases ho s _

theorem compare_cases {o : Operand} (ho : resolvable o = true) (r : Reg) (s : State) :
    compare r o s = .next (raise (.outOfRangeAddress 0xFFFF#16) s) ∨
      ∃ m, readOperand o s = .ok m ∧ compare r o s = .next (s.setP (compareStatus s.p (s.reg r) m)) :=
  withOperand_cases ho s _

theorem store_cases {o : Operand} (ho : resolvable o = true) (r : Reg) (s : State) :
    store r o s = .next (raise (.outOfRangeAddress 0xFFFF#16) s) ∨
      ∃ ea, ea ≠ 0xFFFF#16 ∧ resolve o s = .ok ea ∧
        store r o s = .next (s.setMem (s.mem.poke ea.toNat (s.reg r))) := by
  unfold store
  cases h : resolve o s with
  | error c => exact .inl (by rw [resolve_error ho h]; rfl)
  | ok ea =>
    by_cases hea : ea = 0xFFFF#16
    · subst hea; exact .inl rfl
    · exact .inr ⟨ea, hea, rfl, by simp [writeTo_eq, hea]⟩

theorem shift_cases {o : Operand} (ho : o = .accumulator ∨ resolvable o = true ∧ o ≠ .accumulator) (k : Shift) (s : State) :
    (o = .accumulator ∧ shift k o s
        = .next ((s.setReg .a (shiftResult k s.a (s.flag .c))).setP (shiftStatus k s.p s.a))) ∨
      shift k o s = .next (raise (.outOfRangeAddress 0xFFFF#16) s) ∨
      ∃ ea v, ea ≠ 0xFFFF#16 ∧ resolve o s = .ok ea ∧ memRead s ea = .ok v ∧ shift k o s
        = .next ((s.setMem (s.mem.poke ea.toNat (shiftResult k v (s.flag .c)))).setP (shiftStatus k s.p v)) := by
  rcases ho with rfl | ⟨ho, hne⟩
  · exact .inl ⟨rfl, rfl⟩
  · have : shift k o s = shiftMemory k o s := by
      unfold shift
      split
      · exact absurd rfl hne
      · rfl
    rw [this]
    exact .inr (modify_cases ho _ _ s)

theorem jump_cases {o : Operand} (ho : (∃ w, o = .absoluteJump w) ∨ ∃ w, o = .indirectJump w) (s : State) :
    jump o s = .next (raise (.outOfRangeAddress 0xFFFF#16) s) ∨ ∃ t, jump o s = .next (s.setPc t) := by
  rcases ho with ⟨w, rfl⟩ | ⟨w, rfl⟩
  · simp only [jump, execJmpAbs, operandWord_eq]
    split
    · exact .inl rfl
    · exact .inr ⟨w, rfl⟩
  · simp only [jump, execJmpInd, operandWord_eq]
    split
    · exact .inl rfl
    · rw [withValue_ok]
      cases h : jumpPointer w s with
      | error c => exact .inl (by rw [jumpPointer_error h]; rfl)
      | ok t => exact .inr ⟨t, rfl⟩

theorem jsr_cases (w : Word) (s : State) :
    execJsr w s = .next (raise (.outOfRangeAddress 0xFFFF#16) (pushReturn s)) ∨
      ∃ t, memRead16 (pushReturn s) s.pc = .ok t ∧ execJsr w s = .next ((pushReturn s).setPc t) := by
  unfold execJsr
  cases h : memRead16 (pushReturn s) s.pc with
  | error c => exact .inl (by rw [memRead16_error h]; rfl)
  | ok t => exact .inr ⟨t, rfl, rfl⟩

theorem branch_eq (cond : Bool) (off : Byte) (s : State) :
    branch cond off s = if s.pc = 0xFFFF#16 then .next (raise (.outOfRangeAddress 0xFFFF#16) s)
      else if cond then .next (s.setPc (s.pc + 1 + sext16 off)) else .next s := by
  unfold branch
  rw [operandByte_eq]
  split
  · rfl
  · cases cond <;> rfl

end Sys2Proof.Machine
end

