-- ==== Sys2Proof/Laws/Harness.lean ====
section
/-! SUPPORT. What the host's operations leave in memory, and that they keep its canonical form. -/

namespace Sys2Proof.Machine

/-- What a copy leaves in memory. -/
theorem peek_copyBytes (prog : List Byte) (b : Nat) (m : Memory) (a : Nat) :
    Memory.peek (copyBytes prog b m) a =
      if h : b ≤ a ∧ a < b + prog.length then prog[a - b]'(by omega) else Memory.peek m a := by
  induction prog generalizing b m with
  | nil => simp [copyBytes]
  | cons x xs ih =>
    simp only [copyBytes, ih, Memory.peek_poke]
    by_cases hb : a = b
    · subst hb; simp
    · by_cases h1 : b + 1 ≤ a ∧ a < b + 1 + xs.length
      · rw [dif_pos h1, dif_pos (by simp; omega)]
        simp [show a - b = (a - (b + 1)) + 1 by omega]
      · rw [dif_neg h1, dif_neg (by simp; omega), if_neg hb]

theorem copyBytes_wf (prog : List Byte) (b : Nat) (m : Memory) (h : b + prog.length ≤ memSize) (hm : m.wf = true) :
    (copyBytes prog b m).wf = true := by
  induction prog generalizing b m with
  | nil => exact hm
  | cons x xs ih =>
    simp only [List.length_cons] at h
    exact ih (b + 1) _ (by omega) (Memory.wf_poke m b x (by omega) hm)

/-- `load` keeps the canonical form. -/
theorem hostLoad_wf {prog : List Byte} {m loaded : Memory} (h : hostLoad prog m = some loaded) (hm : m.wf = true) :
    loaded.wf = true := by
  unfold hostLoad at h
  split at h
  · rename_i hl
    have hl : prog.length ≤ 32767 := hl
    cases h
    exact Memory.wf_poke _ _ _ (by decide)
      (Memory.wf_poke _ _ _ (by decide) (copyBytes_wf prog 0x8000 m (by simp only [memSize]; omega) hm))
  · cases h

/-- Placing an instruction where the next step fetches it keeps the canonical form. -/
theorem withFetchWord_wf (s : State) (nbits w : Nat) (hs : s.mem.wf = true) : (s.withFetchWord nbits w).mem.wf = true := by
  have put : ∀ (m : Memory) (a : Word) (b : Nat), m.wf = true →
      (if present a then m.poke a.toNat (BitVec.ofNat 8 b) else m).wf = true := by
    intro m a b hm
    split
    · exact Memory.wf_poke _ _ _ (by simpa [present] using ‹present a = true›) hm
    · exact hm
  exact put _ _ _ (put _ _ _ (put _ _ _ hs))

end Sys2Proof.Machine
end

