-- ==== Sys2Proof/Laws/PerInstr.lean ====
section
/-! SUPPORT. Per instruction: its opcode has a row, and the row is the instruction's (spec/30_encoding.md
R84, R86, R90). -/

namespace Sys2Proof.Laws

/-- The opcode of the instruction has a row in the table; the row carries the instruction's mnemonic,
form and length, and the instruction is well formed. -/
def EncodesARow.Statement (i : Instr) : Prop :=
  ∃ row, opRow? i.opcode = some row ∧ row.opcode = i.opcode ∧ row.desc.mnemonic = i.mnemonic
    ∧ row.desc.form = i.form ∧ row.desc.length = (encode i).length ∧ i.wf = true

theorem EncodesARow.adcImm (b : Byte) : EncodesARow.Statement (.adcImm b) :=
  ⟨_, rfl, rfl, rfl, rfl, rfl, rfl⟩
theorem EncodesARow.adcZp (z : Byte) : EncodesARow.Statement (.adcZp z) :=
  ⟨_, rfl, rfl, rfl, rfl, rfl, rfl⟩
theorem EncodesARow.adcZpX (z : Byte) : EncodesARow.Statement (.adcZpX z) :=
  ⟨_, rfl, rfl, rfl, rfl, rfl, rfl⟩
theorem EncodesARow.adcAbs (w : Word) : EncodesARow.Statement (.adcAbs w) :=
  ⟨_, rfl, rfl, rfl, rfl, rfl, rfl⟩
theorem EncodesARow.adcAbsX (w : Word) : EncodesARow.Statement (.adcAbsX w) :=
  ⟨_, rfl, rfl, rfl, rfl, rfl, rfl⟩
theorem EncodesARow.adcAbsY (w : Word) : EncodesARow.Statement (.adcAbsY w) :=
  ⟨_, rfl, rfl, rfl, rfl, rfl, rfl⟩
theorem EncodesARow.adcIndX (z : Byte) : EncodesARow.Statement (.adcIndX z) :=
  ⟨_, rfl, rfl, rfl, rfl, rfl, rfl⟩
theorem EncodesARow.adcIndY (z : Byte) : EncodesARow.Statement (.adcIndY z) :=
  ⟨_, rfl, rfl, rfl, rfl, rfl, rfl⟩
theorem EncodesARow.andImm (b : Byte) : EncodesARow.Statement (.andImm b) :=
  ⟨_, rfl, rfl, rfl, rfl, rfl, rfl⟩
theorem EncodesARow.andZp (z : Byte) : EncodesARow.Statement (.andZp z) :=
  ⟨_, rfl, rfl, rfl, rfl, rfl, rfl⟩
theorem EncodesARow.andZpX (z : Byte) : EncodesARow.Statement (.andZpX z) :=
  ⟨_, rfl, rfl, rfl, rfl, rfl, rfl⟩
theorem EncodesARow.andAbs (w : Word) : EncodesARow.Statement (.andAbs w) :=
  ⟨_, rfl, rfl, rfl, rfl, rfl, rfl⟩
theorem EncodesARow.andAbsX (w : Word) : EncodesARow.Statement (.andAbsX w) :=
  ⟨_, rfl, rfl, rfl, rfl, rfl, rfl⟩
theorem EncodesARow.andAbsY (w : Word) : EncodesARow.Statement (.andAbsY w) :=
  ⟨_, rfl, rfl, rfl, rfl, rfl, rfl⟩
theorem EncodesARow.andIndX (z : Byte) : EncodesARow.Statement (.andIndX z) :=
  ⟨_, rfl, rfl, rfl, rfl, rfl, rfl⟩
theorem EncodesARow.andIndY (z : Byte) : EncodesARow.Statement (.andIndY z) :=
  ⟨_, rfl, rfl, rfl, rfl, rfl, rfl⟩
theorem EncodesARow.aslAcc : EncodesARow.Statement (.aslAcc) :=
  ⟨_, rfl, rfl, rfl, rfl, rfl, rfl⟩
theorem EncodesARow.aslZp (z : Byte) : EncodesARow.Statement (.aslZp z) :=
  ⟨_, rfl, rfl, rfl, rfl, rfl, rfl⟩
theorem EncodesARow.aslZpX (z : Byte) : EncodesARow.Statement (.aslZpX z) :=
  ⟨_, rfl, rfl, rfl, rfl, rfl, rfl⟩
theorem EncodesARow.aslAbs (w : Word) : EncodesARow.Statement (.aslAbs w) :=
  ⟨_, rfl, rfl, rfl, rfl, rfl, rfl⟩
theorem EncodesARow.aslAbsX (w : Word) : EncodesARow.Statement (.aslAbsX w) :=
  ⟨_, rfl, rfl, rfl, rfl, rfl, rfl⟩
theorem EncodesARow.bcc (off : Byte) : EncodesARow.Statement (.bcc off) :=
  ⟨_, rfl, rfl, rfl, rfl, rfl, rfl⟩
theorem EncodesARow.bcs (off : Byte) : EncodesARow.Statement (.bcs off) :=
  ⟨_, rfl, rfl, rfl, rfl, rfl, rfl⟩
theorem EncodesARow.beq (off : Byte) : EncodesARow.Statement (.beq off) :=
  ⟨_, rfl, rfl, rfl, rfl, rfl, rfl⟩
theorem EncodesARow.bitZp (z : Byte) : EncodesARow.Statement (.bitZp z) :=
  ⟨_, rfl, rfl, rfl, rfl, rfl, rfl⟩
theorem EncodesARow.bitAbs (w : Word) : EncodesARow.Statement (.bitAbs w) :=
  ⟨_, rfl, rfl, rfl, rfl, rfl, rfl⟩
theorem EncodesARow.bmi (off : Byte) : EncodesARow.Statement (.bmi off) :=
  ⟨_, rfl, rfl, rfl, rfl, rfl, rfl⟩
theorem EncodesARow.bne (off : Byte) : EncodesARow.Statement (.bne off) :=
  ⟨_, rfl, rfl, rfl, rfl, rfl, rfl⟩
theorem EncodesARow.bpl (off : Byte) : EncodesARow.Statement (.bpl off) :=
  ⟨_, rfl, rfl, rfl, rfl, rfl, rfl⟩
theorem EncodesARow.brk : EncodesARow.Statement (.brk) :=
  ⟨_, rfl, rfl, rfl, rfl, rfl, rfl⟩
theorem EncodesARow.bvc (off : Byte) : EncodesARow.Statement (.bvc off) :=
  ⟨_, rfl, rfl, rfl, rfl, rfl, rfl⟩
theorem EncodesARow.bvs (off : Byte) : EncodesARow.Statement (.bvs off) :=
  ⟨_, rfl, rfl, rfl, rfl, rfl, rfl⟩
theorem EncodesARow.clc : EncodesARow.Statement (.clc) :=
  ⟨_, rfl, rfl, rfl, rfl, rfl, rfl⟩
theorem EncodesARow.cld : EncodesARow.Statement (.cld) :=
  ⟨_, rfl, rfl, rfl, rfl, rfl, rfl⟩
theorem EncodesARow.cli : EncodesARow.Statement (.cli) :=
  ⟨_, rfl, rfl, rfl, rfl, rfl, rfl⟩
theorem EncodesARow.clv : EncodesARow.Statement (.clv) :=
  ⟨_, rfl, rfl, rfl, rfl, rfl, rfl⟩
theorem EncodesARow.cmpImm (b : Byte) : EncodesARow.Statement (.cmpImm b) :=
  ⟨_, rfl, rfl, rfl, rfl, rfl, rfl⟩
theorem EncodesARow.cmpZp (z : Byte) : EncodesARow.Statement (.cmpZp z) :=
  ⟨_, rfl, rfl, rfl, rfl, rfl, rfl⟩
theorem EncodesARow.cmpZpX (z : Byte) : EncodesARow.Statement (.cmpZpX z) :=
  ⟨_, rfl, rfl, rfl, rfl, rfl, rfl⟩
theorem EncodesARow.cmpAbs (w : Word) : EncodesARow.Statement (.cmpAbs w) :=
  ⟨_, rfl, rfl, rfl, rfl, rfl, rfl⟩
theorem EncodesARow.cmpAbsX (w : Word) : EncodesARow.Statement (.cmpAbsX w) :=
  ⟨_, rfl, rfl, rfl, rfl, rfl, rfl⟩
theorem EncodesARow.cmpAbsY (w : Word) : EncodesARow.Statement (.cmpAbsY w) :=
  ⟨_, rfl, rfl, rfl, rfl, rfl, rfl⟩
theorem EncodesARow.cmpIndX (z : Byte) : EncodesARow.Statement (.cmpIndX z) :=
  ⟨_, rfl, rfl, rfl, rfl, rfl, rfl⟩
theorem EncodesARow.cmpIndY (z : Byte) : EncodesARow.Statement (.cmpIndY z) :=
  ⟨_, rfl, rfl, rfl, rfl, rfl, rfl⟩
theorem EncodesARow.cpxImm (b : Byte) : EncodesARow.Statement (.cpxImm b) :=
  ⟨_, rfl, rfl, rfl, rfl, rfl, rfl⟩
theorem EncodesARow.cpxZp (z : Byte) : EncodesARow.Statement (.cpxZp z) :=
  ⟨_, rfl, rfl, rfl, rfl, rfl, rfl⟩
theorem EncodesARow.cpxAbs (w : Word) : EncodesARow.Statement (.cpxAbs w) :=
  ⟨_, rfl, rfl, rfl, rfl, rfl, rfl⟩
theorem EncodesARow.cpyImm (b : Byte) : EncodesARow.Statement (.cpyImm b) :=
  ⟨_, rfl, rfl, rfl, rfl, rfl, rfl⟩
theorem EncodesARow.cpyZp (z : Byte) : EncodesARow.Statement (.cpyZp z) :=
  ⟨_, rfl, rfl, rfl, rfl, rfl, rfl⟩
theorem EncodesARow.cpyAbs (w : Word) : EncodesARow.Statement (.cpyAbs w) :=
  ⟨_, rfl, rfl, rfl, rfl, rfl, rfl⟩
theorem EncodesARow.decZp (z : Byte) : EncodesARow.Statement (.decZp z) :=
  ⟨_, rfl, rfl, rfl, rfl, rfl, rfl⟩
theorem EncodesARow.decZpX (z : Byte) : EncodesARow.Statement (.decZpX z) :=
  ⟨_, rfl, rfl, rfl, rfl, rfl, rfl⟩
theorem EncodesARow.decAbs (w : Word) : EncodesARow.Statement (.decAbs w) :=
  ⟨_, rfl, rfl, rfl, rfl, rfl, rfl⟩
theorem EncodesARow.decAbsX (w : Word) : EncodesARow.Statement (.decAbsX w) :=
  ⟨_, rfl, rfl, rfl, rfl, rfl, rfl⟩
theorem EncodesARow.dex : EncodesARow.Statement (.dex) :=
  ⟨_, rfl, rfl, rfl, rfl, rfl, rfl⟩
theorem EncodesARow.dey : EncodesARow.Statement (.dey) :=
  ⟨_, rfl, rfl, rfl, rfl, rfl, rfl⟩
theorem EncodesARow.eorImm (b : Byte) : EncodesARow.Statement (.eorImm b) :=
  ⟨_, rfl, rfl, rfl, rfl, rfl, rfl⟩
theorem EncodesARow.eorZp (z : Byte) : EncodesARow.Statement (.eorZp z) :=
  ⟨_, rfl, rfl, rfl, rfl, rfl, rfl⟩
theorem EncodesARow.eorZpX (z : Byte) : EncodesARow.Statement (.eorZpX z) :=
  ⟨_, rfl, rfl, rfl, rfl, rfl, rfl⟩
theorem EncodesARow.eorAbs (w : Word) : EncodesARow.Statement (.eorAbs w) :=
  ⟨_, rfl, rfl, rfl, rfl, rfl, rfl⟩
theorem EncodesARow.eorAbsX (w : Word) : EncodesARow.Statement (.eorAbsX w) :=
  ⟨_, rfl, rfl, rfl, rfl, rfl, rfl⟩
theorem EncodesARow.eorAbsY (w : Word) : EncodesARow.Statement (.eorAbsY w) :=
  ⟨_, rfl, rfl, rfl, rfl, rfl, rfl⟩
theorem EncodesARow.eorIndX (z : Byte) : EncodesARow.Statement (.eorIndX z) :=
  ⟨_, rfl, rfl, rfl, rfl, rfl, rfl⟩
theorem EncodesARow.eorIndY (z : Byte) : EncodesARow.Statement (.eorIndY z) :=
  ⟨_, rfl, rfl, rfl, rfl, rfl, rfl⟩
theorem EncodesARow.incZp (z : Byte) : EncodesARow.Statement (.incZp z) :=
  ⟨_, rfl, rfl, rfl, rfl, rfl, rfl⟩
theorem EncodesARow.incZpX (z : Byte) : EncodesARow.Statement (.incZpX z) :=
  ⟨_, rfl, rfl, rfl, rfl, rfl, rfl⟩
theorem EncodesARow.incAbs (w : Word) : EncodesARow.Statement (.incAbs w) :=
  ⟨_, rfl, rfl, rfl, rfl, rfl, rfl⟩
theorem EncodesARow.incAbsX (w : Word) : EncodesARow.Statement (.incAbsX w) :=
  ⟨_, rfl, rfl, rfl, rfl, rfl, rfl⟩
theorem EncodesARow.inx : EncodesARow.Statement (.inx) :=
  ⟨_, rfl, rfl, rfl, rfl, rfl, rfl⟩
theorem EncodesARow.iny : EncodesARow.Statement (.iny) :=
  ⟨_, rfl, rfl, rfl, rfl, rfl, rfl⟩
theorem EncodesARow.jmpAbs (w : Word) : EncodesARow.Statement (.jmpAbs w) :=
  ⟨_, rfl, rfl, rfl, rfl, rfl, rfl⟩
theorem EncodesARow.jmpInd (w : Word) : EncodesARow.Statement (.jmpInd w) :=
  ⟨_, rfl, rfl, rfl, rfl, rfl, rfl⟩
theorem EncodesARow.jsr (w : Word) : EncodesARow.Statement (.jsr w) :=
  ⟨_, rfl, rfl, rfl, rfl, rfl, rfl⟩
theorem EncodesARow.ldaImm (b : Byte) : EncodesARow.Statement (.ldaImm b) :=
  ⟨_, rfl, rfl, rfl, rfl, rfl, rfl⟩
theorem EncodesARow.ldaZp (z : Byte) : EncodesARow.Statement (.ldaZp z) :=
  ⟨_, rfl, rfl, rfl, rfl, rfl, rfl⟩
theorem EncodesARow.ldaZpX (z : Byte) : EncodesARow.Statement (.ldaZpX z) :=
  ⟨_, rfl, rfl, rfl, rfl, rfl, rfl⟩
theorem EncodesARow.ldaAbs (w : Word) : EncodesARow.Statement (.ldaAbs w) :=
  ⟨_, rfl, rfl, rfl, rfl, rfl, rfl⟩
theorem EncodesARow.ldaAbsX (w : Word) : EncodesARow.Statement (.ldaAbsX w) :=
  ⟨_, rfl, rfl, rfl, rfl, rfl, rfl⟩
theorem EncodesARow.ldaAbsY (w : Word) : EncodesARow.Statement (.ldaAbsY w) :=
  ⟨_, rfl, rfl, rfl, rfl, rfl, rfl⟩
theorem EncodesARow.ldaIndX (z : Byte) : EncodesARow.Statement (.ldaIndX z) :=
  ⟨_, rfl, rfl, rfl, rfl, rfl, rfl⟩
theorem EncodesARow.ldaIndY (z : Byte) : EncodesARow.Statement (.ldaIndY z) :=
  ⟨_, rfl, rfl, rfl, rfl, rfl, rfl⟩
theorem EncodesARow.ldxImm (b : Byte) : EncodesARow.Statement (.ldxImm b) :=
  ⟨_, rfl, rfl, rfl, rfl, rfl, rfl⟩
theorem EncodesARow.ldxZp (z : Byte) : EncodesARow.Statement (.ldxZp z) :=
  ⟨_, rfl, rfl, rfl, rfl, rfl, rfl⟩
theorem EncodesARow.ldxZpY (z : Byte) : EncodesARow.Statement (.ldxZpY z) :=
  ⟨_, rfl, rfl, rfl, rfl, rfl, rfl⟩
theorem EncodesARow.ldxAbs (w : Word) : EncodesARow.Statement (.ldxAbs w) :=
  ⟨_, rfl, rfl, rfl, rfl, rfl, rfl⟩
theorem EncodesARow.ldxAbsY (w : Word) : EncodesARow.Statement (.ldxAbsY w) :=
  ⟨_, rfl, rfl, rfl, rfl, rfl, rfl⟩
theorem EncodesARow.ldyImm (b : Byte) : EncodesARow.Statement (.ldyImm b) :=
  ⟨_, rfl, rfl, rfl, rfl, rfl, rfl⟩
theorem EncodesARow.ldyZp (z : Byte) : EncodesARow.Statement (.ldyZp z) :=
  ⟨_, rfl, rfl, rfl, rfl, rfl, rfl⟩
theorem EncodesARow.ldyZpX (z : Byte) : EncodesARow.Statement (.ldyZpX z) :=
  ⟨_, rfl, rfl, rfl, rfl, rfl, rfl⟩
theorem EncodesARow.ldyAbs (w : Word) : EncodesARow.Statement (.ldyAbs w) :=
  ⟨_, rfl, rfl, rfl, rfl, rfl, rfl⟩
theorem EncodesARow.ldyAbsX (w : Word) : EncodesARow.Statement (.ldyAbsX w) :=
  ⟨_, rfl, rfl, rfl, rfl, rfl, rfl⟩
theorem EncodesARow.lsrAcc : EncodesARow.Statement (.lsrAcc) :=
  ⟨_, rfl, rfl, rfl, rfl, rfl, rfl⟩
theorem EncodesARow.lsrZp (z : Byte) : EncodesARow.Statement (.lsrZp z) :=
  ⟨_, rfl, rfl, rfl, rfl, rfl, rfl⟩
theorem EncodesARow.lsrZpX (z : Byte) : EncodesARow.Statement (.lsrZpX z) :=
  ⟨_, rfl, rfl, rfl, rfl, rfl, rfl⟩
theorem EncodesARow.lsrAbs (w : Word) : EncodesARow.Statement (.lsrAbs w) :=
  ⟨_, rfl, rfl, rfl, rfl, rfl, rfl⟩
theorem EncodesARow.lsrAbsX (w : Word) : EncodesARow.Statement (.lsrAbsX w) :=
  ⟨_, rfl, rfl, rfl, rfl, rfl, rfl⟩
theorem EncodesARow.nop : EncodesARow.Statement (.nop) :=
  ⟨_, rfl, rfl, rfl, rfl, rfl, rfl⟩
theorem EncodesARow.oraImm (b : Byte) : EncodesARow.Statement (.oraImm b) :=
  ⟨_, rfl, rfl, rfl, rfl, rfl, rfl⟩
theorem EncodesARow.oraZp (z : Byte) : EncodesARow.Statement (.oraZp z) :=
  ⟨_, rfl, rfl, rfl, rfl, rfl, rfl⟩
theorem EncodesARow.oraZpX (z : Byte) : EncodesARow.Statement (.oraZpX z) :=
  ⟨_, rfl, rfl, rfl, rfl, rfl, rfl⟩
theorem EncodesARow.oraAbs (w : Word) : EncodesARow.Statement (.oraAbs w) :=
  ⟨_, rfl, rfl, rfl, rfl, rfl, rfl⟩
theorem EncodesARow.oraAbsX (w : Word) : EncodesARow.Statement (.oraAbsX w) :=
  ⟨_, rfl, rfl, rfl, rfl, rfl, rfl⟩
theorem EncodesARow.oraAbsY (w : Word) : EncodesARow.Statement (.oraAbsY w) :=
  ⟨_, rfl, rfl, rfl, rfl, rfl, rfl⟩
theorem EncodesARow.oraIndX (z : Byte) : EncodesARow.Statement (.oraIndX z) :=
  ⟨_, rfl, rfl, rfl, rfl, rfl, rfl⟩
theorem EncodesARow.oraIndY (z : Byte) : EncodesARow.Statement (.oraIndY z) :=
  ⟨_, rfl, rfl, rfl, rfl, rfl, rfl⟩
theorem EncodesARow.pha : EncodesARow.Statement (.pha) :=
  ⟨_, rfl, rfl, rfl, rfl, rfl, rfl⟩
theorem EncodesARow.php : EncodesARow.Statement (.php) :=
  ⟨_, rfl, rfl, rfl, rfl, rfl, rfl⟩
theorem EncodesARow.pla : EncodesARow.Statement (.pla) :=
  ⟨_, rfl, rfl, rfl, rfl, rfl, rfl⟩
theorem EncodesARow.plp : EncodesARow.Statement (.plp) :=
  ⟨_, rfl, rfl, rfl, rfl, rfl, rfl⟩
theorem EncodesARow.rolAcc : EncodesARow.Statement (.rolAcc) :=
  ⟨_, rfl, rfl, rfl, rfl, rfl, rfl⟩
theorem EncodesARow.rolZp (z : Byte) : EncodesARow.Statement (.rolZp z) :=
  ⟨_, rfl, rfl, rfl, rfl, rfl, rfl⟩
theorem EncodesARow.rolZpX (z : Byte) : EncodesARow.Statement (.rolZpX z) :=
  ⟨_, rfl, rfl, rfl, rfl, rfl, rfl⟩
theorem EncodesARow.rolAbs (w : Word) : EncodesARow.Statement (.rolAbs w) :=
  ⟨_, rfl, rfl, rfl, rfl, rfl, rfl⟩
theorem EncodesARow.rolAbsX (w : Word) : EncodesARow.Statement (.rolAbsX w) :=
  ⟨_, rfl, rfl, rfl, rfl, rfl, rfl⟩
theorem EncodesARow.rorAcc : EncodesARow.Statement (.rorAcc) :=
  ⟨_, rfl, rfl, rfl, rfl, rfl, rfl⟩
theorem EncodesARow.rorZp (z : Byte) : EncodesARow.Statement (.rorZp z) :=
  ⟨_, rfl, rfl, rfl, rfl, rfl, rfl⟩
theorem EncodesARow.rorZpX (z : Byte) : EncodesARow.Statement (.rorZpX z) :=
  ⟨_, rfl, rfl, rfl, rfl, rfl, rfl⟩
theorem EncodesARow.rorAbs (w : Word) : EncodesARow.Statement (.rorAbs w) :=
  ⟨_, rfl, rfl, rfl, rfl, rfl, rfl⟩
theorem EncodesARow.rorAbsX (w : Word) : EncodesARow.Statement (.rorAbsX w) :=
  ⟨_, rfl, rfl, rfl, rfl, rfl, rfl⟩
theorem EncodesARow.rti : EncodesARow.Statement (.rti) :=
  ⟨_, rfl, rfl, rfl, rfl, rfl, rfl⟩
theorem EncodesARow.rts : EncodesARow.Statement (.rts) :=
  ⟨_, rfl, rfl, rfl, rfl, rfl, rfl⟩
theorem EncodesARow.sbcImm (b : Byte) : EncodesARow.Statement (.sbcImm b) :=
  ⟨_, rfl, rfl, rfl, rfl, rfl, rfl⟩
theorem EncodesARow.sbcZp (z : Byte) : EncodesARow.Statement (.sbcZp z) :=
  ⟨_, rfl, rfl, rfl, rfl, rfl, rfl⟩
theorem EncodesARow.sbcZpX (z : Byte) : EncodesARow.Statement (.sbcZpX z) :=
  ⟨_, rfl, rfl, rfl, rfl, rfl, rfl⟩
theorem EncodesARow.sbcAbs (w : Word) : EncodesARow.Statement (.sbcAbs w) :=
  ⟨_, rfl, rfl, rfl, rfl, rfl, rfl⟩
theorem EncodesARow.sbcAbsX (w : Word) : EncodesARow.Statement (.sbcAbsX w) :=
  ⟨_, rfl, rfl, rfl, rfl, rfl, rfl⟩
theorem EncodesARow.sbcAbsY (w : Word) : EncodesARow.Statement (.sbcAbsY w) :=
  ⟨_, rfl, rfl, rfl, rfl, rfl, rfl⟩
theorem EncodesARow.sbcIndX (z : Byte) : EncodesARow.Statement (.sbcIndX z) :=
  ⟨_, rfl, rfl, rfl, rfl, rfl, rfl⟩
theorem EncodesARow.sbcIndY (z : Byte) : EncodesARow.Statement (.sbcIndY z) :=
  ⟨_, rfl, rfl, rfl, rfl, rfl, rfl⟩
theorem EncodesARow.sec : EncodesARow.Statement (.sec) :=
  ⟨_, rfl, rfl, rfl, rfl, rfl, rfl⟩
theorem EncodesARow.sed : EncodesARow.Statement (.sed) :=
  ⟨_, rfl, rfl, rfl, rfl, rfl, rfl⟩
theorem EncodesARow.sei : EncodesARow.Statement (.sei) :=
  ⟨_, rfl, rfl, rfl, rfl, rfl, rfl⟩
theorem EncodesARow.staZp (z : Byte) : EncodesARow.Statement (.staZp z) :=
  ⟨_, rfl, rfl, rfl, rfl, rfl, rfl⟩
theorem EncodesARow.staZpX (z : Byte) : EncodesARow.Statement (.staZpX z) :=
  ⟨_, rfl, rfl, rfl, rfl, rfl, rfl⟩
theorem EncodesARow.staAbs (w : Word) : EncodesARow.Statement (.staAbs w) :=
  ⟨_, rfl, rfl, rfl, rfl, rfl, rfl⟩
theorem EncodesARow.staAbsX (w : Word) : EncodesARow.Statement (.staAbsX w) :=
  ⟨_, rfl, rfl, rfl, rfl, rfl, rfl⟩
theorem EncodesARow.staAbsY (w : Word) : EncodesARow.Statement (.staAbsY w) :=
  ⟨_, rfl, rfl, rfl, rfl, rfl, rfl⟩
theorem EncodesARow.staIndX (z : Byte) : EncodesARow.Statement (.staIndX z) :=
  ⟨_, rfl, rfl, rfl, rfl, rfl, rfl⟩
theorem EncodesARow.staIndY (z : Byte) : EncodesARow.Statement (.staIndY z) :=
  ⟨_, rfl, rfl, rfl, rfl, rfl, rfl⟩
theorem EncodesARow.stxZp (z : Byte) : EncodesARow.Statement (.stxZp z) :=
  ⟨_, rfl, rfl, rfl, rfl, rfl, rfl⟩
theorem EncodesARow.stxZpY (z : Byte) : EncodesARow.Statement (.stxZpY z) :=
  ⟨_, rfl, rfl, rfl, rfl, rfl, rfl⟩
theorem EncodesARow.stxAbs (w : Word) : EncodesARow.Statement (.stxAbs w) :=
  ⟨_, rfl, rfl, rfl, rfl, rfl, rfl⟩
theorem EncodesARow.styZp (z : Byte) : EncodesARow.Statement (.styZp z) :=
  ⟨_, rfl, rfl, rfl, rfl, rfl, rfl⟩
theorem EncodesARow.styZpX (z : Byte) : EncodesARow.Statement (.styZpX z) :=
  ⟨_, rfl, rfl, rfl, rfl, rfl, rfl⟩
theorem EncodesARow.styAbs (w : Word) : EncodesARow.Statement (.styAbs w) :=
  ⟨_, rfl, rfl, rfl, rfl, rfl, rfl⟩
theorem EncodesARow.tax : EncodesARow.Statement (.tax) :=
  ⟨_, rfl, rfl, rfl, rfl, rfl, rfl⟩
theorem EncodesARow.tay : EncodesARow.Statement (.tay) :=
  ⟨_, rfl, rfl, rfl, rfl, rfl, rfl⟩
theorem EncodesARow.tsx : EncodesARow.Statement (.tsx) :=
  ⟨_, rfl, rfl, rfl, rfl, rfl, rfl⟩
theorem EncodesARow.txa : EncodesARow.Statement (.txa) :=
  ⟨_, rfl, rfl, rfl, rfl, rfl, rfl⟩
theorem EncodesARow.txs : EncodesARow.Statement (.txs) :=
  ⟨_, rfl, rfl, rfl, rfl, rfl, rfl⟩
theorem EncodesARow.tya : EncodesARow.Statement (.tya) :=
  ⟨_, rfl, rfl, rfl, rfl, rfl, rfl⟩

/-- Every instruction encodes a row of the table. -/
theorem encodesARow (i : Instr) : EncodesARow.Statement i := by
  cases i with
  | adcImm b => exact EncodesARow.adcImm b
  | adcZp z => exact EncodesARow.adcZp z
  | adcZpX z => exact EncodesARow.adcZpX z
  | adcAbs w => exact EncodesARow.adcAbs w
  | adcAbsX w => exact EncodesARow.adcAbsX w
  | adcAbsY w => exact EncodesARow.adcAbsY w
  | adcIndX z => exact EncodesARow.adcIndX z
  | adcIndY z => exact EncodesARow.adcIndY z
  | andImm b => exact EncodesARow.andImm b
  | andZp z => exact EncodesARow.andZp z
  | andZpX z => exact EncodesARow.andZpX z
  | andAbs w => exact EncodesARow.andAbs w
  | andAbsX w => exact EncodesARow.andAbsX w
  | andAbsY w => exact EncodesARow.andAbsY w
  | andIndX z => exact EncodesARow.andIndX z
  | andIndY z => exact EncodesARow.andIndY z
  | aslAcc => exact EncodesARow.aslAcc
  | aslZp z => exact EncodesARow.aslZp z
  | aslZpX z => exact EncodesARow.aslZpX z
  | aslAbs w => exact EncodesARow.aslAbs w
  | aslAbsX w => exact EncodesARow.aslAbsX w
  | bcc off => exact EncodesARow.bcc off
  | bcs off => exact EncodesARow.bcs off
  | beq off => exact EncodesARow.beq off
  | bitZp z => exact EncodesARow.bitZp z
  | bitAbs w => exact EncodesARow.bitAbs w
  | bmi off => exact EncodesARow.bmi off
  | bne off => exact EncodesARow.bne off
  | bpl off => exact EncodesARow.bpl off
  | brk => exact EncodesARow.brk
  | bvc off => exact EncodesARow.bvc off
  | bvs off => exact EncodesARow.bvs off
  | clc => exact EncodesARow.clc
  | cld => exact EncodesARow.cld
  | cli => exact EncodesARow.cli
  | clv => exact EncodesARow.clv
  | cmpImm b => exact EncodesARow.cmpImm b
  | cmpZp z => exact EncodesARow.cmpZp z
  | cmpZpX z => exact EncodesARow.cmpZpX z
  | cmpAbs w => exact EncodesARow.cmpAbs w
  | cmpAbsX w => exact EncodesARow.cmpAbsX w
  | cmpAbsY w => exact EncodesARow.cmpAbsY w
  | cmpIndX z => exact EncodesARow.cmpIndX z
  | cmpIndY z => exact EncodesARow.cmpIndY z
  | cpxImm b => exact EncodesARow.cpxImm b
  | cpxZp z => exact EncodesARow.cpxZp z
  | cpxAbs w => exact EncodesARow.cpxAbs w
  | cpyImm b => exact EncodesARow.cpyImm b
  | cpyZp z => exact EncodesARow.cpyZp z
  | cpyAbs w => exact EncodesARow.cpyAbs w
  | decZp z => exact EncodesARow.decZp z
  | decZpX z => exact EncodesARow.decZpX z
  | decAbs w => exact EncodesARow.decAbs w
  | decAbsX w => exact EncodesARow.decAbsX w
  | dex => exact EncodesARow.dex
  | dey => exact EncodesARow.dey
  | eorImm b => exact EncodesARow.eorImm b
  | eorZp z => exact EncodesARow.eorZp z
  | eorZpX z => exact EncodesARow.eorZpX z
  | eorAbs w => exact EncodesARow.eorAbs w
  | eorAbsX w => exact EncodesARow.eorAbsX w
  | eorAbsY w => exact EncodesARow.eorAbsY w
  | eorIndX z => exact EncodesARow.eorIndX z
  | eorIndY z => exact EncodesARow.eorIndY z
  | incZp z => exact EncodesARow.incZp z
  | incZpX z => exact EncodesARow.incZpX z
  | incAbs w => exact EncodesARow.incAbs w
  | incAbsX w => exact EncodesARow.incAbsX w
  | inx => exact EncodesARow.inx
  | iny => exact EncodesARow.iny
  | jmpAbs w => exact EncodesARow.jmpAbs w
  | jmpInd w => exact EncodesARow.jmpInd w
  | jsr w => exact EncodesARow.jsr w
  | ldaImm b => exact EncodesARow.ldaImm b
  | ldaZp z => exact EncodesARow.ldaZp z
  | ldaZpX z => exact EncodesARow.ldaZpX z
  | ldaAbs w => exact EncodesARow.ldaAbs w
  | ldaAbsX w => exact EncodesARow.ldaAbsX w
  | ldaAbsY w => exact EncodesARow.ldaAbsY w
  | ldaIndX z => exact EncodesARow.ldaIndX z
  | ldaIndY z => exact EncodesARow.ldaIndY z
  | ldxImm b => exact EncodesARow.ldxImm b
  | ldxZp z => exact EncodesARow.ldxZp z
  | ldxZpY z => exact EncodesARow.ldxZpY z
  | ldxAbs w => exact EncodesARow.ldxAbs w
  | ldxAbsY w => exact EncodesARow.ldxAbsY w
  | ldyImm b => exact EncodesARow.ldyImm b
  | ldyZp z => exact EncodesARow.ldyZp z
  | ldyZpX z => exact EncodesARow.ldyZpX z
  | ldyAbs w => exact EncodesARow.ldyAbs w
  | ldyAbsX w => exact EncodesARow.ldyAbsX w
  | lsrAcc => exact EncodesARow.lsrAcc
  | lsrZp z => exact EncodesARow.lsrZp z
  | lsrZpX z => exact EncodesARow.lsrZpX z
  | lsrAbs w => exact EncodesARow.lsrAbs w
  | lsrAbsX w => exact EncodesARow.lsrAbsX w
  | nop => exact EncodesARow.nop
  | oraImm b => exact EncodesARow.oraImm b
  | oraZp z => exact EncodesARow.oraZp z
  | oraZpX z => exact EncodesARow.oraZpX z
  | oraAbs w => exact EncodesARow.oraAbs w
  | oraAbsX w => exact EncodesARow.oraAbsX w
  | oraAbsY w => exact EncodesARow.oraAbsY w
  | oraIndX z => exact EncodesARow.oraIndX z
  | oraIndY z => exact EncodesARow.oraIndY z
  | pha => exact EncodesARow.pha
  | php => exact EncodesARow.php
  | pla => exact EncodesARow.pla
  | plp => exact EncodesARow.plp
  | rolAcc => exact EncodesARow.rolAcc
  | rolZp z => exact EncodesARow.rolZp z
  | rolZpX z => exact EncodesARow.rolZpX z
  | rolAbs w => exact EncodesARow.rolAbs w
  | rolAbsX w => exact EncodesARow.rolAbsX w
  | rorAcc => exact EncodesARow.rorAcc
  | rorZp z => exact EncodesARow.rorZp z
  | rorZpX z => exact EncodesARow.rorZpX z
  | rorAbs w => exact EncodesARow.rorAbs w
  | rorAbsX w => exact EncodesARow.rorAbsX w
  | rti => exact EncodesARow.rti
  | rts => exact EncodesARow.rts
  | sbcImm b => exact EncodesARow.sbcImm b
  | sbcZp z => exact EncodesARow.sbcZp z
  | sbcZpX z => exact EncodesARow.sbcZpX z
  | sbcAbs w => exact EncodesARow.sbcAbs w
  | sbcAbsX w => exact EncodesARow.sbcAbsX w
  | sbcAbsY w => exact EncodesARow.sbcAbsY w
  | sbcIndX z => exact EncodesARow.sbcIndX z
  | sbcIndY z => exact EncodesARow.sbcIndY z
  | sec => exact EncodesARow.sec
  | sed => exact EncodesARow.sed
  | sei => exact EncodesARow.sei
  | staZp z => exact EncodesARow.staZp z
  | staZpX z => exact EncodesARow.staZpX z
  | staAbs w => exact EncodesARow.staAbs w
  | staAbsX w => exact EncodesARow.staAbsX w
  | staAbsY w => exact EncodesARow.staAbsY w
  | staIndX z => exact EncodesARow.staIndX z
  | staIndY z => exact EncodesARow.staIndY z
  | stxZp z => exact EncodesARow.stxZp z
  | stxZpY z => exact EncodesARow.stxZpY z
  | stxAbs w => exact EncodesARow.stxAbs w
  | styZp z => exact EncodesARow.styZp z
  | styZpX z => exact EncodesARow.styZpX z
  | styAbs w => exact EncodesARow.styAbs w
  | tax => exact EncodesARow.tax
  | tay => exact EncodesARow.tay
  | tsx => exact EncodesARow.tsx
  | txa => exact EncodesARow.txa
  | txs => exact EncodesARow.txs
  | tya => exact EncodesARow.tya

end Sys2Proof.Laws
end

