-- ==== Sys2Proof/Laws/Step.lean ====
section
/-! SUPPORT. Everything a step can do. -/

namespace Sys2Proof.Machine

/-- Everything the fetch can do: raise at the opcode byte, raise at the lookup, or go on with an
instruction of the row. -/
theorem fetch_cases (s : State) :
    (s.pc = 0xFFFF#16 ∧ fetch s = .raised (raise (.outOfRangeAddress 0xFFFF#16) s)) ∨
      (∃ op, s.pc ≠ 0xFFFF#16 ∧ memRead s s.pc = .ok op ∧ opRow? op = none ∧
        fetch s = .raised (raise (.unrecognizedOpcode op) (s.setPc (s.pc + 1)))) ∨
      ∃ row, s.pc ≠ 0xFFFF#16 ∧ row ∈ opTable ∧ memRead s s.pc = .ok row.opcode ∧ opRow? row.opcode = some row ∧
        fetch s = .decoded (row.build.apply (s.mem.peek (s.pc + 1).toNat) (s.mem.peek (s.pc + 2).toNat))
          row.desc.length (s.setPc (s.pc + 1)) := by
  unfold fetch
  by_cases h : s.pc = 0xFFFF#16
  · exact .inl ⟨h, by simp [memRead_eq, h]⟩
  · rw [memRead_of_ne h]
    cases hr : opRow? (s.mem.peek s.pc.toNat) with
    | none => exact .inr (.inl ⟨_, h, rfl, hr, by simp [hr]⟩)
    | some row =>
      obtain ⟨hm, ho⟩ := opRow?_mem hr
      exact .inr (.inr ⟨row, h, hm, by rw [ho], by rw [ho, hr], by simp [hr]⟩)

/-- The fetch's instruction belongs to the row of the opcode byte: its length is the descriptor's. -/
theorem fetch_decoded {s t : State} {i : Instr} {n : Nat} (h : fetch s = .decoded i n t) :
    s.pc ≠ 0xFFFF#16 ∧ memRead s s.pc = .ok i.opcode ∧ n = i.length ∧ i.wf = true ∧ t = s.setPc (s.pc + 1) := by
  rcases fetch_cases s with ⟨_, h'⟩ | ⟨_, _, _, _, h'⟩ | ⟨row, hpc, hm, ho, _, h'⟩
  · rw [h'] at h; cases h
  · rw [h'] at h; cases h
  · rw [h'] at h
    cases h
    obtain ⟨h1, _, _, h4, h5, _⟩ := opTable_describes hm (s.mem.peek (s.pc + 1).toNat) (s.mem.peek (s.pc + 2).toNat)
    exact ⟨hpc, by rw [h1, ho], h4.symm, h5, rfl⟩

/-- Everything the generic advance can do. -/
theorem advanced_cases (pc1 : Word) (n : Nat) (t : State) :
    advanced pc1 n t = t ∨ ∃ w, advanced pc1 n t = t.setPc w := by
  unfold advanced
  split
  · exact .inr ⟨_, rfl⟩
  · exact .inl rfl

theorem advance_next {pc1 : Word} {n : Nat} {r : Result} {u : State} (h : advance pc1 n r = .next u) :
    ∃ t, r = .next t ∧ u = advanced pc1 n t := by
  cases r with
  | next t => exact ⟨t, rfl, by simpa [advance] using h.symm⟩
  | fault f => cases h
  | refused r => cases h

/-- Everything a step can do when it answers a next state: the machine was Running, and the step ended at
the opcode fetch, at the lookup, or in a handler with the advance after it. -/
theorem step_cases {s u : State} (h : step s = .next u) :
    s.run = .running ∧
      (u = raise (.outOfRangeAddress 0xFFFF#16) s ∨
        (∃ op, opRow? op = none ∧ u = raise (.unrecognizedOpcode op) (s.setPc (s.pc + 1))) ∨
        ∃ i t, exec i (s.setPc (s.pc + 1)) = .next t ∧ u = advanced (s.pc + 1) i.length t) := by
  unfold step at h
  cases hr : s.run with
  | halted => rw [hr] at h; cases h
  | faulted c => rw [hr] at h; cases h
  | running =>
    rw [hr] at h
    refine ⟨rfl, ?_⟩
    rcases fetch_cases s with ⟨_, hf⟩ | ⟨op, _, _, hn, hf⟩ | ⟨row, _, hm, _, _, hf⟩
    · rw [hf] at h; cases h; exact .inl rfl
    · rw [hf] at h; cases h; exact .inr (.inl ⟨op, hn, rfl⟩)
    · obtain ⟨_, _, hlen, _, ht⟩ := fetch_decoded hf
      rw [hf] at h
      obtain ⟨t, he, hu⟩ := advance_next h
      exact .inr (.inr ⟨_, t, he, by rw [hu, hlen]; rfl⟩)

end Sys2Proof.Machine
end

