-- ==== Sys2Proof/Tests/Slice0.lean ====
section
/-! SUPPORT. The tests: the well-formedness checks refuse an ill-formed term each, words written out from the
spec's encodings decode to what they stand for, one step each of vectors of spec/95_test_vectors.md, and for
every obligation with hypotheses a state and operands that meet them. -/

namespace Sys2Proof.Tests

open Sys2Proof Sys2Proof.Machine

/-! ## WellFormed: one ill-formed descriptor for each check (30_encoding.md R82, R90; 40_addressing.md R122) -/

theorem test_wf_refuses_length : Descriptor.lengthOk ⟨.lda, .immediate, 3, 2, .none⟩ = false
    ∧ Descriptor.wf ⟨.lda, .immediate, 3, 2, .none⟩ = false := by decide
theorem test_wf_refuses_missing_mode : Descriptor.resolverOk ⟨.lda, .implied, 1, 2, .none⟩ = false
    ∧ Descriptor.wf ⟨.lda, .implied, 1, 2, .none⟩ = false := by decide
theorem test_wf_refuses_needless_mode : Descriptor.resolverOk ⟨.tax, .zeroPage, 2, 2, .none⟩ = false
    ∧ Descriptor.wf ⟨.tax, .zeroPage, 2, 2, .none⟩ = false := by decide
theorem test_wf_refuses_immediate_store : Descriptor.immediateOk ⟨.sta, .immediate, 2, 2, .none⟩ = false
    ∧ Descriptor.wf ⟨.sta, .immediate, 2, 2, .none⟩ = false := by decide
theorem test_wf_refuses_zeroPageY : Descriptor.zeroPageYOk ⟨.lda, .zeroPageY, 2, 4, .none⟩ = false
    ∧ Descriptor.wf ⟨.lda, .zeroPageY, 2, 4, .none⟩ = false := by decide
theorem test_wf_refuses_absoluteY : Descriptor.absoluteYOk ⟨.inc, .absoluteY, 3, 7, .none⟩ = false
    ∧ Descriptor.wf ⟨.inc, .absoluteY, 3, 7, .none⟩ = false := by decide
theorem test_wf_refuses_indirect : Descriptor.indirectOk ⟨.ldx, .indirectX, 2, 6, .none⟩ = false
    ∧ Descriptor.wf ⟨.ldx, .indirectX, 2, 6, .none⟩ = false := by decide
theorem test_wf_refuses_jump_form : Descriptor.jumpFormOk ⟨.jsr, .indirectJump, 3, 6, .none⟩ = false
    ∧ Descriptor.wf ⟨.jsr, .indirectJump, 3, 6, .none⟩ = false := by decide
theorem test_wf_accepts : Descriptor.wf ⟨.lda, .immediate, 2, 2, .none⟩ = true
    ∧ (Instr.stxZpY 0x12).wf = true := by decide

/-! ## Decode: every row's word, written out from the row (30_encoding.md R80, R85, R86)

The bytes after an opcode are 0x34 and 0x12: an operand byte is 0x34, an operand word 0x1234. -/

/-- The instruction that the decoder reads from the front of some bytes. -/
def read (bs : List Byte) : Option Instr :=
  match decode bs with
  | .ok (i, _) => some i
  | .error _ => none

/-- The instructions read from each opcode byte, followed by 0x34 and 0x12. -/
def readEach (ops : List Byte) : List (Option Instr) := ops.map fun op => read [op, 0x34, 0x12]

theorem test_decode_loads_and_stores : readEach [
    0xA9, 0xA5, 0xB5, 0xAD, 0xBD, 0xB9, 0xA1, 0xB1, 0xA2, 0xA6, 0xB6, 0xAE, 0xBE, 0xA0, 0xA4, 0xB4,
    0xAC, 0xBC, 0x85, 0x95, 0x8D, 0x9D, 0x99, 0x81, 0x91, 0x86, 0x96, 0x8E, 0x84, 0x94, 0x8C]
  = [some (.ldaImm 0x34), some (.ldaZp 0x34), some (.ldaZpX 0x34), some (.ldaAbs 0x1234),
    some (.ldaAbsX 0x1234), some (.ldaAbsY 0x1234), some (.ldaIndX 0x34), some (.ldaIndY 0x34),
    some (.ldxImm 0x34), some (.ldxZp 0x34), some (.ldxZpY 0x34), some (.ldxAbs 0x1234),
    some (.ldxAbsY 0x1234), some (.ldyImm 0x34), some (.ldyZp 0x34), some (.ldyZpX 0x34),
    some (.ldyAbs 0x1234), some (.ldyAbsX 0x1234), some (.staZp 0x34), some (.staZpX 0x34),
    some (.staAbs 0x1234), some (.staAbsX 0x1234), some (.staAbsY 0x1234), some (.staIndX 0x34),
    some (.staIndY 0x34), some (.stxZp 0x34), some (.stxZpY 0x34), some (.stxAbs 0x1234),
    some (.styZp 0x34), some (.styZpX 0x34), some (.styAbs 0x1234)] := by decide
theorem test_decode_transfers_and_counts : readEach [
    0xAA, 0xA8, 0x8A, 0x98, 0xBA, 0x9A, 0xE8, 0xC8, 0xCA, 0x88, 0xE6, 0xF6, 0xEE, 0xFE, 0xC6, 0xD6,
    0xCE, 0xDE]
  = [some .tax, some .tay, some .txa, some .tya, some .tsx, some .txs, some .inx, some .iny, some .dex,
    some .dey, some (.incZp 0x34), some (.incZpX 0x34), some (.incAbs 0x1234), some (.incAbsX 0x1234),
    some (.decZp 0x34), some (.decZpX 0x34), some (.decAbs 0x1234), some (.decAbsX 0x1234)] := by decide
theorem test_decode_logic : readEach [
    0x29, 0x25, 0x35, 0x2D, 0x3D, 0x39, 0x21, 0x31, 0x49, 0x45, 0x55, 0x4D, 0x5D, 0x59, 0x41, 0x51,
    0x09, 0x05, 0x15, 0x0D, 0x1D, 0x19, 0x01, 0x11, 0x24, 0x2C]
  = [some (.andImm 0x34), some (.andZp 0x34), some (.andZpX 0x34), some (.andAbs 0x1234),
    some (.andAbsX 0x1234), some (.andAbsY 0x1234), some (.andIndX 0x34), some (.andIndY 0x34),
    some (.eorImm 0x34), some (.eorZp 0x34), some (.eorZpX 0x34), some (.eorAbs 0x1234),
    some (.eorAbsX 0x1234), some (.eorAbsY 0x1234), some (.eorIndX 0x34), some (.eorIndY 0x34),
    some (.oraImm 0x34), some (.oraZp 0x34), some (.oraZpX 0x34), some (.oraAbs 0x1234),
    some (.oraAbsX 0x1234), some (.oraAbsY 0x1234), some (.oraIndX 0x34), some (.oraIndY 0x34),
    some (.bitZp 0x34), some (.bitAbs 0x1234)] := by decide
theorem test_decode_arithmetic : readEach [
    0x69, 0x65, 0x75, 0x6D, 0x7D, 0x79, 0x61, 0x71, 0xE9, 0xE5, 0xF5, 0xED, 0xFD, 0xF9, 0xE1, 0xF1,
    0xC9, 0xC5, 0xD5, 0xCD, 0xDD, 0xD9, 0xC1, 0xD1, 0xE0, 0xE4, 0xEC, 0xC0, 0xC4, 0xCC]
  = [some (.adcImm 0x34), some (.adcZp 0x34), some (.adcZpX 0x34), some (.adcAbs 0x1234),
    some (.adcAbsX 0x1234), some (.adcAbsY 0x1234), some (.adcIndX 0x34), some (.adcIndY 0x34),
    some (.sbcImm 0x34), some (.sbcZp 0x34), some (.sbcZpX 0x34), some (.sbcAbs 0x1234),
    some (.sbcAbsX 0x1234), some (.sbcAbsY 0x1234), some (.sbcIndX 0x34), some (.sbcIndY 0x34),
    some (.cmpImm 0x34), some (.cmpZp 0x34), some (.cmpZpX 0x34), some (.cmpAbs 0x1234),
    some (.cmpAbsX 0x1234), some (.cmpAbsY 0x1234), some (.cmpIndX 0x34), some (.cmpIndY 0x34),
    some (.cpxImm 0x34), some (.cpxZp 0x34), some (.cpxAbs 0x1234), some (.cpyImm 0x34),
    some (.cpyZp 0x34), some (.cpyAbs 0x1234)] := by decide
theorem test_decode_shifts : readEach [
    0x0A, 0x06, 0x16, 0x0E, 0x1E, 0x4A, 0x46, 0x56, 0x4E, 0x5E, 0x2A, 0x26, 0x36, 0x2E, 0x3E, 0x6A,
    0x66, 0x76, 0x6E, 0x7E]
  = [some .aslAcc, some (.aslZp 0x34), some (.aslZpX 0x34), some (.aslAbs 0x1234),
    some (.aslAbsX 0x1234), some .lsrAcc, some (.lsrZp 0x34), some (.lsrZpX 0x34),
    some (.lsrAbs 0x1234), some (.lsrAbsX 0x1234), some .rolAcc, some (.rolZp 0x34),
    some (.rolZpX 0x34), some (.rolAbs 0x1234), some (.rolAbsX 0x1234), some .rorAcc,
    some (.rorZp 0x34), some (.rorZpX 0x34), some (.rorAbs 0x1234), some (.rorAbsX 0x1234)] := by decide
theorem test_decode_stack_flags_nop : readEach [
    0x48, 0x68, 0x08, 0x28, 0x18, 0x38, 0x58, 0x78, 0xD8, 0xF8, 0xB8, 0xEA]
  = [some .pha, some .pla, some .php, some .plp, some .clc, some .sec, some .cli, some .sei, some .cld,
    some .sed, some .clv, some .nop] := by decide
theorem test_decode_control : readEach [
    0x4C, 0x6C, 0x20, 0x60, 0x40, 0x90, 0xB0, 0xF0, 0xD0, 0x10, 0x30, 0x50, 0x70, 0x00]
  = [some (.jmpAbs 0x1234), some (.jmpInd 0x1234), some (.jsr 0x1234), some .rts, some .rti,
    some (.bcc 0x34), some (.bcs 0x34), some (.beq 0x34), some (.bne 0x34), some (.bpl 0x34),
    some (.bmi 0x34), some (.bvc 0x34), some (.bvs 0x34), some .brk] := by decide

/-- One word of each family in bits, from the rows of R86: LDA ZeroPageX 0xB5, STX ZeroPageY 0x96,
TXS 0x9A, DEC AbsoluteX 0xDE, EOR IndirectY 0x51, SBC Immediate 0xE9, ROR Accumulator 0x6A, PLP 0x28,
BVS Relative 0x70, JMP IndirectJump 0x6C, CLV 0xB8. -/
theorem test_decode_bits :
    [[0b10110101, 0b00010000], [0b10010110, 0b11110000], [0b10011010], [0b11011110, 0b11111111, 0b00000010],
      [0b01010001, 0b10000110], [0b11101001, 0b00000001], [0b01101010], [0b00101000], [0b01110000, 0b10000000],
      [0b01101100, 0b11111111, 0b00110000], [0b10111000]].map read
    = [some (.ldaZpX 0x10), some (.stxZpY 0xF0), some .txs, some (.decAbsX 0x02FF), some (.eorIndY 0x86),
      some (.sbcImm 0x01), some .rorAcc, some .plp, some (.bvs 0x80), some (.jmpInd 0x30FF), some .clv] := by decide

/-- Bytes outside the table, and bytes cut off, are rejected by name (R84, R88). -/
theorem test_decode_rejects : decode [0x02, 0x00, 0x00] = .error (.unrecognizedOpcode 0x02)
    ∧ decode [0xFF] = .error (.unrecognizedOpcode 0xFF) ∧ decode [0xAD, 0x34] = .error (.missingOperand 0xAD)
    ∧ decode [] = .error .empty := by refine ⟨?_, ?_, ?_, ?_⟩ <;> rfl

/-- The encoder lays the bytes out as R80 does, the low byte of a word first (R85). -/
theorem test_encode : encode (.ldaAbsX 0x1234) = [0xBD, 0x34, 0x12] ∧ encode (.bne 0xFB) = [0xD0, 0xFB]
    ∧ encode .rti = [0x40] ∧ encode (.staIndY 0x40) = [0x91, 0x40] := by decide

/-! ## The host's entry points: bit 0 of a word is the least significant bit of the first byte -/

theorem test_table_word : decodeTableWord 16 0x05A9 = some (.ldaImm 0x05)
    ∧ decodeTableWord 24 0x1234BD = some (.ldaAbsX 0x1234) ∧ decodeTableWord 8 0xAD = some (.ldaAbs 0x0000)
    ∧ decodeTableWord 8 0x02 = none := by decide

/-- What a vector of spec/95_test_vectors.md says of a state. -/
structure View where
  (a x y sp p : Byte)
  pc : Word
  run : RunState
  deriving DecidableEq, Repr

/-- The state of a vector: reset, the bytes written in turn, the preset, and pc. -/
def start (pc : Word) (bytes : List Byte) (pre : Preset) (cells : List (Nat × Byte)) : State :=
  let s := pre.apply { State.reset with pc := pc }
  s.setMem (cells.foldl (fun m c => m.poke c.1 c.2) (copyBytes bytes pc.toNat s.mem))

/-- One step from it: the registers, and the bytes at the addresses asked for. -/
def run (pc : Word) (bytes : List Byte) (pre : Preset) (cells : List (Nat × Byte)) (shown : List Nat) :
    Option (View × List Byte) :=
  match step (start pc bytes pre cells) with
  | .next t => some (⟨t.a, t.x, t.y, t.sp, t.p, t.pc, t.run⟩, shown.map (Memory.peek t.mem))
  | .fault _ => none
  | .refused _ => none

theorem test_fetch_word_three_bytes :
    (match step (State.reset.withFetchWord 24 0x80104C) with
      | .next t => some t.pc
      | .fault _ => none
      | .refused _ => none) = some 0x8010 := by decide
theorem test_fetch_word_one_byte :
    (match step (State.reset.withFetchWord 8 0xBA) with
      | .next t => some (t.x, t.pc)
      | .fault _ => none
      | .refused _ => none) = some (0xFD, 0x0001) := by decide

/-! ## One step each (spec/95_test_vectors.md, section 2; the number is the vector's)

The lists are the bytes at pc, the bytes set elsewhere, and the addresses whose bytes are shown after. -/

theorem test_v2_ldaZp : run 0x8000 [0xA5, 0x10] {} [(0x0010, 0x80)] []
    = some (⟨0x80, 0x00, 0x00, 0xFD, 0xA4, 0x8002, .running⟩, []) := by decide
theorem test_v3_ldaZpX : run 0x8000 [0xB5, 0xFF] { x := some 0x01 } [(0x0000, 0x11), (0x0100, 0x99)] []
    = some (⟨0x11, 0x01, 0x00, 0xFD, 0x24, 0x8002, .running⟩, []) := by decide
theorem test_v4_ldxZpY : run 0x8000 [0xB6, 0xF0] { y := some 0x20 } [(0x0010, 0x22), (0x0110, 0x99)] []
    = some (⟨0x00, 0x22, 0x20, 0xFD, 0x24, 0x8002, .running⟩, []) := by decide
theorem test_v5_ldaAbs : run 0x8000 [0xAD, 0x34, 0x12] {} [(0x1234, 0x7F)] []
    = some (⟨0x7F, 0x00, 0x00, 0xFD, 0x24, 0x8003, .running⟩, []) := by decide
theorem test_v7_ldaAbsX : run 0x8000 [0xBD, 0xF0, 0xFF] { x := some 0x20 } [(0x0010, 0x44)] []
    = some (⟨0x44, 0x20, 0x00, 0xFD, 0x24, 0x8003, .running⟩, []) := by decide
theorem test_v8_ldaAbsY : run 0x8000 [0xB9, 0x00, 0x20] { y := some 0xFF } [(0x20FF, 0x55)] []
    = some (⟨0x55, 0x00, 0xFF, 0xFD, 0x24, 0x8003, .running⟩, []) := by decide
theorem test_v9_ldaIndX : run 0x8000 [0xA1, 0x20] { x := some 0x04 } [(0x0024, 0x74), (0x0025, 0x20), (0x2074, 0x66)] []
    = some (⟨0x66, 0x04, 0x00, 0xFD, 0x24, 0x8002, .running⟩, []) := by decide
theorem test_v10_ldaIndX : run 0x8000 [0xA1, 0xFE] { x := some 0x01 } [(0x0000, 0x12), (0x00FF, 0x34), (0x0100, 0x99), (0x1234, 0x77), (0x9934, 0xEE)] []
    = some (⟨0x77, 0x01, 0x00, 0xFD, 0x24, 0x8002, .running⟩, []) := by decide
theorem test_v11_ldaIndY : run 0x8000 [0xB1, 0x86] { y := some 0x10 } [(0x0086, 0x28), (0x0087, 0x40), (0x4038, 0x88)] []
    = some (⟨0x88, 0x00, 0x10, 0xFD, 0xA4, 0x8002, .running⟩, []) := by decide
theorem test_v12_ldaIndY : run 0x8000 [0xB1, 0xFF] { y := some 0x01 } [(0x0000, 0xFF), (0x00FF, 0xFF)] []
    = some (⟨0xFF, 0x00, 0x01, 0xFD, 0xA4, 0x8002, .running⟩, []) := by decide
theorem test_v13_ldaAbsX : run 0x8000 [0xBD, 0xF0, 0xFF] { x := some 0x0F } [] []
    = some (⟨0x00, 0x0F, 0x00, 0xFD, 0x24, 0x8001, (.faulted (.outOfRangeAddress 0xFFFF))⟩, []) := by decide
theorem test_v20_ldaImm : run 0x8000 [0xA9, 0x00] { a := some 0x55 } [] []
    = some (⟨0x00, 0x00, 0x00, 0xFD, 0x26, 0x8002, .running⟩, []) := by decide
theorem test_v22_ldxImm : run 0x8000 [0xA2, 0x80] {} [] []
    = some (⟨0x00, 0x80, 0x00, 0xFD, 0xA4, 0x8002, .running⟩, []) := by decide
theorem test_v23_ldyImm : run 0x8000 [0xA0, 0x7F] { p := some 0xA6 } [] []
    = some (⟨0x00, 0x00, 0x7F, 0xFD, 0x24, 0x8002, .running⟩, []) := by decide
theorem test_v24_staZp : run 0x8000 [0x85, 0x10] { a := some 0x80 } [] [0x0010]
    = some (⟨0x80, 0x00, 0x00, 0xFD, 0x24, 0x8002, .running⟩, [0x80]) := by decide
theorem test_v25_staIndY : run 0x8000 [0x91, 0x40] { a := some 0x00, y := some 0x02, p := some 0x24 } [(0x0040, 0xFE), (0x0041, 0x02)] [0x0300]
    = some (⟨0x00, 0x00, 0x02, 0xFD, 0x24, 0x8002, .running⟩, [0x00]) := by decide
theorem test_v26_stxZpY : run 0x8000 [0x96, 0xF0] { x := some 0xAB, y := some 0x20 } [] [0x0010]
    = some (⟨0x00, 0xAB, 0x20, 0xFD, 0x24, 0x8002, .running⟩, [0xAB]) := by decide
theorem test_v27_styAbs : run 0x8000 [0x8C, 0x00, 0x03] { y := some 0x5A } [] [0x0300]
    = some (⟨0x00, 0x00, 0x5A, 0xFD, 0x24, 0x8003, .running⟩, [0x5A]) := by decide
theorem test_v28_staAbsX : run 0x8000 [0x9D, 0x00, 0x01] { a := some 0x11, x := some 0xFD } [] [0x01FD]
    = some (⟨0x11, 0xFD, 0x00, 0xFD, 0x24, 0x8003, .running⟩, [0x11]) := by decide
theorem test_v29_tax : run 0x8000 [0xAA] { a := some 0x00, x := some 0x05 } [] []
    = some (⟨0x00, 0x00, 0x00, 0xFD, 0x26, 0x8001, .running⟩, []) := by decide
theorem test_v30_tay : run 0x8000 [0xA8] { a := some 0x80 } [] []
    = some (⟨0x80, 0x00, 0x80, 0xFD, 0xA4, 0x8001, .running⟩, []) := by decide
theorem test_v31_txa : run 0x8000 [0x8A] { a := some 0xFF, x := some 0x01, p := some 0xA4 } [] []
    = some (⟨0x01, 0x01, 0x00, 0xFD, 0x24, 0x8001, .running⟩, []) := by decide
theorem test_v32_tya : run 0x8000 [0x98] { y := some 0xC3 } [] []
    = some (⟨0xC3, 0x00, 0xC3, 0xFD, 0xA4, 0x8001, .running⟩, []) := by decide
theorem test_v33_tsx : run 0x8000 [0xBA] {} [] []
    = some (⟨0x00, 0xFD, 0x00, 0xFD, 0xA4, 0x8001, .running⟩, []) := by decide
theorem test_v34_txs : run 0x8000 [0x9A] { x := some 0x00, sp := some 0x55 } [] []
    = some (⟨0x00, 0x00, 0x00, 0x00, 0x24, 0x8001, .running⟩, []) := by decide
theorem test_v35_txs : run 0x8000 [0x9A] { x := some 0xFF } [] []
    = some (⟨0x00, 0xFF, 0x00, 0xFF, 0x24, 0x8001, .running⟩, []) := by decide
theorem test_v40_inx : run 0x8000 [0xE8] { x := some 0xFF } [] []
    = some (⟨0x00, 0x00, 0x00, 0xFD, 0x26, 0x8001, .running⟩, []) := by decide
theorem test_v41_inx : run 0x8000 [0xE8] { x := some 0x7F } [] []
    = some (⟨0x00, 0x80, 0x00, 0xFD, 0xA4, 0x8001, .running⟩, []) := by decide
theorem test_v42_iny : run 0x8000 [0xC8] { y := some 0x00 } [] []
    = some (⟨0x00, 0x00, 0x01, 0xFD, 0x24, 0x8001, .running⟩, []) := by decide
theorem test_v43_dex : run 0x8000 [0xCA] { x := some 0x00 } [] []
    = some (⟨0x00, 0xFF, 0x00, 0xFD, 0xA4, 0x8001, .running⟩, []) := by decide
theorem test_v44_dey : run 0x8000 [0x88] { y := some 0x01 } [] []
    = some (⟨0x00, 0x00, 0x00, 0xFD, 0x26, 0x8001, .running⟩, []) := by decide
theorem test_v45_incZp : run 0x8000 [0xE6, 0x10] {} [(0x0010, 0xFF)] [0x0010]
    = some (⟨0x00, 0x00, 0x00, 0xFD, 0x26, 0x8002, .running⟩, [0x00]) := by decide
theorem test_v46_incZpX : run 0x8000 [0xF6, 0x20] { x := some 0xF0 } [(0x0010, 0x7F)] [0x0010]
    = some (⟨0x00, 0xF0, 0x00, 0xFD, 0xA4, 0x8002, .running⟩, [0x80]) := by decide
theorem test_v47_decAbs : run 0x8000 [0xCE, 0x00, 0x03] {} [(0x0300, 0x00)] [0x0300]
    = some (⟨0x00, 0x00, 0x00, 0xFD, 0xA4, 0x8003, .running⟩, [0xFF]) := by decide
theorem test_v48_decAbsX : run 0x8000 [0xDE, 0xFF, 0x02] { a := some 0x33, x := some 0x01 } [(0x0300, 0x01)] [0x0300]
    = some (⟨0x33, 0x01, 0x00, 0xFD, 0x26, 0x8003, .running⟩, [0x00]) := by decide
theorem test_v50_andImm : run 0x8000 [0x29, 0x0F] { a := some 0xF0 } [] []
    = some (⟨0x00, 0x00, 0x00, 0xFD, 0x26, 0x8002, .running⟩, []) := by decide
theorem test_v51_andZp : run 0x8000 [0x25, 0x10] { a := some 0xFF } [(0x0010, 0x80)] []
    = some (⟨0x80, 0x00, 0x00, 0xFD, 0xA4, 0x8002, .running⟩, []) := by decide
theorem test_v52_eorImm : run 0x8000 [0x49, 0xFF] { a := some 0xFF } [] []
    = some (⟨0x00, 0x00, 0x00, 0xFD, 0x26, 0x8002, .running⟩, []) := by decide
theorem test_v53_eorImm : run 0x8000 [0x49, 0x80] { a := some 0x01 } [] []
    = some (⟨0x81, 0x00, 0x00, 0xFD, 0xA4, 0x8002, .running⟩, []) := by decide
theorem test_v54_oraImm : run 0x8000 [0x09, 0x00] { a := some 0x00 } [] []
    = some (⟨0x00, 0x00, 0x00, 0xFD, 0x26, 0x8002, .running⟩, []) := by decide
theorem test_v55_oraIndY : run 0x8000 [0x11, 0x10] { a := some 0x01, y := some 0x01 } [(0x0010, 0xFF), (0x0011, 0x02), (0x0300, 0x80)] []
    = some (⟨0x81, 0x00, 0x01, 0xFD, 0xA4, 0x8002, .running⟩, []) := by decide
theorem test_v56_bitZp : run 0x8000 [0x24, 0x10] { a := some 0x01 } [(0x0010, 0xC0)] []
    = some (⟨0x01, 0x00, 0x00, 0xFD, 0xE6, 0x8002, .running⟩, []) := by decide
theorem test_v57_bitZp : run 0x8000 [0x24, 0x10] { a := some 0xFF, p := some 0xE6 } [(0x0010, 0x3F)] []
    = some (⟨0xFF, 0x00, 0x00, 0xFD, 0x24, 0x8002, .running⟩, []) := by decide
theorem test_v58_bitAbs : run 0x8000 [0x2C, 0x00, 0x03] { a := some 0x80 } [(0x0300, 0x40)] []
    = some (⟨0x80, 0x00, 0x00, 0xFD, 0x66, 0x8003, .running⟩, []) := by decide
theorem test_v60_adcImm : run 0x8000 [0x69, 0x01] { a := some 0x7F } [] []
    = some (⟨0x80, 0x00, 0x00, 0xFD, 0xE4, 0x8002, .running⟩, []) := by decide
theorem test_v65_adcImm : run 0x8000 [0x69, 0x01] { a := some 0x09, p := some 0x2C } [] []
    = some (⟨0x0A, 0x00, 0x00, 0xFD, 0x2C, 0x8002, .running⟩, []) := by decide
theorem test_v66_adcZpX : run 0x8000 [0x75, 0x10] { a := some 0x40, x := some 0x01 } [(0x0011, 0x40)] []
    = some (⟨0x80, 0x01, 0x00, 0xFD, 0xE4, 0x8002, .running⟩, []) := by decide
theorem test_v68_sbcImm : run 0x8000 [0xE9, 0x01] { a := some 0x00, p := some 0x25 } [] []
    = some (⟨0xFF, 0x00, 0x00, 0xFD, 0xA4, 0x8002, .running⟩, []) := by decide
theorem test_v70_sbcImm : run 0x8000 [0xE9, 0xB0] { a := some 0x50, p := some 0x25 } [] []
    = some (⟨0xA0, 0x00, 0x00, 0xFD, 0xE4, 0x8002, .running⟩, []) := by decide
theorem test_v75_cmpImm : run 0x8000 [0xC9, 0x05] { a := some 0x03, p := some 0x25 } [] []
    = some (⟨0x03, 0x00, 0x00, 0xFD, 0xA4, 0x8002, .running⟩, []) := by decide
theorem test_v77_cmpImm : run 0x8000 [0xC9, 0x00] { a := some 0xFF, p := some 0x64 } [] []
    = some (⟨0xFF, 0x00, 0x00, 0xFD, 0xE5, 0x8002, .running⟩, []) := by decide
theorem test_v78_cpxZp : run 0x8000 [0xE4, 0x10] { x := some 0x10 } [(0x0010, 0x10)] []
    = some (⟨0x00, 0x10, 0x00, 0xFD, 0x27, 0x8002, .running⟩, []) := by decide
theorem test_v79_cpyImm : run 0x8000 [0xC0, 0x03] { y := some 0x02 } [] []
    = some (⟨0x00, 0x00, 0x02, 0xFD, 0xA4, 0x8002, .running⟩, []) := by decide
theorem test_v80_aslAcc : run 0x8000 [0x0A] { a := some 0x81 } [] []
    = some (⟨0x02, 0x00, 0x00, 0xFD, 0x25, 0x8001, .running⟩, []) := by decide
theorem test_v81_aslAcc : run 0x8000 [0x0A] { a := some 0x80, p := some 0x25 } [] []
    = some (⟨0x00, 0x00, 0x00, 0xFD, 0x27, 0x8001, .running⟩, []) := by decide
theorem test_v82_aslZp : run 0x8000 [0x06, 0x10] { a := some 0x77 } [(0x0010, 0x40)] [0x0010]
    = some (⟨0x77, 0x00, 0x00, 0xFD, 0xA4, 0x8002, .running⟩, [0x80]) := by decide
theorem test_v83_lsrAcc : run 0x8000 [0x4A] { a := some 0x01, p := some 0xA4 } [] []
    = some (⟨0x00, 0x00, 0x00, 0xFD, 0x27, 0x8001, .running⟩, []) := by decide
theorem test_v84_lsrZp : run 0x8000 [0x46, 0x10] {} [(0x0010, 0x03)] [0x0010]
    = some (⟨0x00, 0x00, 0x00, 0xFD, 0x25, 0x8002, .running⟩, [0x01]) := by decide
theorem test_v85_rolAcc : run 0x8000 [0x2A] { a := some 0x40, p := some 0x25 } [] []
    = some (⟨0x81, 0x00, 0x00, 0xFD, 0xA4, 0x8001, .running⟩, []) := by decide
theorem test_v86_rolAcc : run 0x8000 [0x2A] { a := some 0x80, p := some 0x24 } [] []
    = some (⟨0x00, 0x00, 0x00, 0xFD, 0x27, 0x8001, .running⟩, []) := by decide
theorem test_v87_rolAbsX : run 0x8000 [0x3E, 0x00, 0x03] { x := some 0x02, p := some 0x25 } [(0x0302, 0xFF)] [0x0302]
    = some (⟨0x00, 0x02, 0x00, 0xFD, 0xA5, 0x8003, .running⟩, [0xFF]) := by decide
theorem test_v88_rorAcc : run 0x8000 [0x6A] { a := some 0x02, p := some 0x25 } [] []
    = some (⟨0x81, 0x00, 0x00, 0xFD, 0xA4, 0x8001, .running⟩, []) := by decide
theorem test_v89_rorAcc : run 0x8000 [0x6A] { a := some 0x01, p := some 0x24 } [] []
    = some (⟨0x00, 0x00, 0x00, 0xFD, 0x27, 0x8001, .running⟩, []) := by decide
theorem test_v90_rorZpX : run 0x8000 [0x76, 0x10] { x := some 0xF0, p := some 0x25 } [(0x0000, 0x00)] [0x0000]
    = some (⟨0x00, 0xF0, 0x00, 0xFD, 0xA4, 0x8002, .running⟩, [0x80]) := by decide
theorem test_v100_pha : run 0x8000 [0x48] { a := some 0x42 } [] [0x01FD]
    = some (⟨0x42, 0x00, 0x00, 0xFC, 0x24, 0x8001, .running⟩, [0x42]) := by decide
theorem test_v101_pha : run 0x8000 [0x48] { a := some 0x42, sp := some 0x00 } [] [0x0100]
    = some (⟨0x42, 0x00, 0x00, 0xFF, 0x24, 0x8001, .running⟩, [0x42]) := by decide
theorem test_v102_pla : run 0x8000 [0x68] { sp := some 0xFC } [(0x01FD, 0x80)] []
    = some (⟨0x80, 0x00, 0x00, 0xFD, 0xA4, 0x8001, .running⟩, []) := by decide
theorem test_v103_pla : run 0x8000 [0x68] { a := some 0x55, sp := some 0xFF } [(0x0100, 0x00)] []
    = some (⟨0x00, 0x00, 0x00, 0x00, 0x26, 0x8001, .running⟩, []) := by decide
theorem test_v104_php : run 0x8000 [0x08] {} [] [0x01FD]
    = some (⟨0x00, 0x00, 0x00, 0xFC, 0x24, 0x8001, .running⟩, [0x34]) := by decide
theorem test_v105_php : run 0x8000 [0x08] { p := some 0xE7 } [] [0x01FD]
    = some (⟨0x00, 0x00, 0x00, 0xFC, 0xE7, 0x8001, .running⟩, [0xF7]) := by decide
theorem test_v107_plp : run 0x8000 [0x28] { sp := some 0xFC } [(0x01FD, 0xFF)] []
    = some (⟨0x00, 0x00, 0x00, 0xFD, 0xEF, 0x8001, .running⟩, []) := by decide
theorem test_v108_plp : run 0x8000 [0x28] { sp := some 0xFC } [(0x01FD, 0x00)] []
    = some (⟨0x00, 0x00, 0x00, 0xFD, 0x20, 0x8001, .running⟩, []) := by decide
theorem test_v110_jmpAbs : run 0x8000 [0x4C, 0x10, 0x80] {} [] []
    = some (⟨0x00, 0x00, 0x00, 0xFD, 0x24, 0x8010, .running⟩, []) := by decide
theorem test_v111_jmpAbs : run 0x8000 [0x4C, 0x01, 0x80] {} [] []
    = some (⟨0x00, 0x00, 0x00, 0xFD, 0x24, 0x8003, .running⟩, []) := by decide
theorem test_v113_jmpInd : run 0x8000 [0x6C, 0xFF, 0x30] {} [(0x3000, 0x50), (0x30FF, 0x80), (0x3100, 0x51)] []
    = some (⟨0x00, 0x00, 0x00, 0xFD, 0x24, 0x5080, .running⟩, []) := by decide
theorem test_v116_jsr : run 0x80FE [0x20, 0x34, 0x12] { sp := some 0x00 } [] [0x0100, 0x01FF]
    = some (⟨0x00, 0x00, 0x00, 0xFE, 0x24, 0x1234, .running⟩, [0x81, 0x00]) := by decide
theorem test_v118_rts : run 0x8010 [0x60] { sp := some 0xFB } [(0x01FC, 0x02), (0x01FD, 0x80)] []
    = some (⟨0x00, 0x00, 0x00, 0xFD, 0x24, 0x8003, .running⟩, []) := by decide
theorem test_v119_rts : run 0x8000 [0x60] { sp := some 0xFD } [(0x01FE, 0xFF), (0x01FF, 0xFF)] []
    = some (⟨0x00, 0x00, 0x00, 0xFF, 0x24, 0x0000, .running⟩, []) := by decide
theorem test_v120_rti : run 0x8000 [0x40] { sp := some 0xFA } [(0x01FB, 0xC3), (0x01FC, 0x34), (0x01FD, 0x12)] []
    = some (⟨0x00, 0x00, 0x00, 0xFD, 0xE3, 0x1234, .running⟩, []) := by decide
theorem test_v121_bcc : run 0x8000 [0x90, 0x04] {} [] []
    = some (⟨0x00, 0x00, 0x00, 0xFD, 0x24, 0x8006, .running⟩, []) := by decide
theorem test_v123_bcs : run 0x8000 [0xB0, 0xFC] { p := some 0x25 } [] []
    = some (⟨0x00, 0x00, 0x00, 0xFD, 0x25, 0x7FFE, .running⟩, []) := by decide
theorem test_v124_beq : run 0x8010 [0xF0, 0x10] { p := some 0x26 } [] []
    = some (⟨0x00, 0x00, 0x00, 0xFD, 0x26, 0x8022, .running⟩, []) := by decide
theorem test_v126_bne : run 0x8005 [0xD0, 0xFB] { p := some 0x26 } [] []
    = some (⟨0x00, 0x00, 0x00, 0xFD, 0x26, 0x8007, .running⟩, []) := by decide
theorem test_v127_bpl : run 0x8000 [0x10, 0x7F] {} [] []
    = some (⟨0x00, 0x00, 0x00, 0xFD, 0x24, 0x8081, .running⟩, []) := by decide
theorem test_v128_bmi : run 0x8000 [0x30, 0x80] { p := some 0xA4 } [] []
    = some (⟨0x00, 0x00, 0x00, 0xFD, 0xA4, 0x7F82, .running⟩, []) := by decide
theorem test_v129_bvc : run 0x8000 [0x50, 0x02] {} [] []
    = some (⟨0x00, 0x00, 0x00, 0xFD, 0x24, 0x8004, .running⟩, []) := by decide
theorem test_v130_bvs : run 0x8000 [0x70, 0x02] { p := some 0x64 } [] []
    = some (⟨0x00, 0x00, 0x00, 0xFD, 0x64, 0x8004, .running⟩, []) := by decide
theorem test_v131_bcc : run 0x8000 [0x90, 0xFF] {} [] []
    = some (⟨0x00, 0x00, 0x00, 0xFD, 0x24, 0x8002, .running⟩, []) := by decide
theorem test_v134_bpl : run 0xFFF0 [0x10, 0x7F] {} [] []
    = some (⟨0x00, 0x00, 0x00, 0xFD, 0x24, 0x0071, .running⟩, []) := by decide
theorem test_v135_brk : run 0x8000 [0x00] { a := some 0x12, sp := some 0x80, p := some 0xE7 } [] []
    = some (⟨0x12, 0x00, 0x00, 0x80, 0xE7, 0x8001, .halted⟩, []) := by decide
theorem test_v136_jsr : run 0x01FB [0x20, 0x34, 0x12] { sp := some 0xFD } [] [0x01FC, 0x01FD]
    = some (⟨0x00, 0x00, 0x00, 0xFB, 0x24, 0x01FD, .running⟩, [0xFD, 0x01]) := by decide
theorem test_v140_clc : run 0x8000 [0x18] { p := some 0x25 } [] []
    = some (⟨0x00, 0x00, 0x00, 0xFD, 0x24, 0x8001, .running⟩, []) := by decide
theorem test_v141_sec : run 0x8000 [0x38] {} [] []
    = some (⟨0x00, 0x00, 0x00, 0xFD, 0x25, 0x8001, .running⟩, []) := by decide
theorem test_v142_cli : run 0x8000 [0x58] {} [] []
    = some (⟨0x00, 0x00, 0x00, 0xFD, 0x20, 0x8001, .running⟩, []) := by decide
theorem test_v143_sei : run 0x8000 [0x78] { p := some 0x20 } [] []
    = some (⟨0x00, 0x00, 0x00, 0xFD, 0x24, 0x8001, .running⟩, []) := by decide
theorem test_v144_cld : run 0x8000 [0xD8] { p := some 0x2C } [] []
    = some (⟨0x00, 0x00, 0x00, 0xFD, 0x24, 0x8001, .running⟩, []) := by decide
theorem test_v145_sed : run 0x8000 [0xF8] {} [] []
    = some (⟨0x00, 0x00, 0x00, 0xFD, 0x2C, 0x8001, .running⟩, []) := by decide
theorem test_v146_clv : run 0x8000 [0xB8] { p := some 0x64 } [] []
    = some (⟨0x00, 0x00, 0x00, 0xFD, 0x24, 0x8001, .running⟩, []) := by decide
theorem test_v147_nop : run 0x8000 [0xEA] { a := some 0x01, x := some 0x02, y := some 0x03, p := some 0xE7 } [] []
    = some (⟨0x01, 0x02, 0x03, 0xFD, 0xE7, 0x8001, .running⟩, []) := by decide
theorem test_v150_undefined02 : run 0x8000 [0x02] { a := some 0x11 } [] []
    = some (⟨0x11, 0x00, 0x00, 0xFD, 0x24, 0x8001, (.faulted (.unrecognizedOpcode 0x02))⟩, []) := by decide
theorem test_v151_undefinedFF : run 0x8000 [0xFF] {} [] []
    = some (⟨0x00, 0x00, 0x00, 0xFD, 0x24, 0x8001, (.faulted (.unrecognizedOpcode 0xFF))⟩, []) := by decide
theorem test_v152_undefined80 : run 0x8000 [0x80, 0x00] {} [] []
    = some (⟨0x00, 0x00, 0x00, 0xFD, 0x24, 0x8001, (.faulted (.unrecognizedOpcode 0x80))⟩, []) := by decide
theorem test_v153_ldaImm : run 0xFFFE [0xA9] {} [] []
    = some (⟨0x00, 0x00, 0x00, 0xFD, 0x24, 0xFFFF, (.faulted (.outOfRangeAddress 0xFFFF))⟩, []) := by decide
theorem test_v155_staAbs : run 0x8000 [0x8D, 0xFF, 0xFF] { a := some 0x01 } [] []
    = some (⟨0x01, 0x00, 0x00, 0xFD, 0x24, 0x8001, (.faulted (.outOfRangeAddress 0xFFFF))⟩, []) := by decide
theorem test_v156_ldaAbs : run 0x9000 [0xAD, 0xFE, 0xFF] {} [(0xFFFE, 0x5A)] []
    = some (⟨0x5A, 0x00, 0x00, 0xFD, 0x24, 0x9003, .running⟩, []) := by decide
theorem test_v157_jmpInd : run 0x8000 [0x6C, 0xFE, 0xFF] {} [(0xFFFE, 0x00)] []
    = some (⟨0x00, 0x00, 0x00, 0xFD, 0x24, 0x8001, (.faulted (.outOfRangeAddress 0xFFFF))⟩, []) := by decide
theorem test_v159_undefined03 : run 0xFFFE [0x03] {} [] []
    = some (⟨0x00, 0x00, 0x00, 0xFD, 0x24, 0xFFFF, (.faulted (.unrecognizedOpcode 0x03))⟩, []) := by decide
theorem test_v160_incAbsX : run 0x8000 [0xFE, 0xFF, 0xFF] { x := some 0x00 } [] []
    = some (⟨0x00, 0x00, 0x00, 0xFD, 0x24, 0x8001, (.faulted (.outOfRangeAddress 0xFFFF))⟩, []) := by decide
theorem test_v161_bne : run 0xFFFE [0xD0] { p := some 0x26 } [] []
    = some (⟨0x00, 0x00, 0x00, 0xFD, 0x26, 0xFFFF, (.faulted (.outOfRangeAddress 0xFFFF))⟩, []) := by decide

/-! ## The host's operations and the outputs (spec/70_reset_and_hazards.md, spec/41_execution_cycle.md) -/

/-- Program P1's launch state (R309), and the trace event of its first step (R136). -/
theorem test_launch : (launch [] [0xA9, 0x05, 0x00]).map (fun s => (s.pc, s.sp, s.p, traceEvent s))
    = some (0x8000, 0xFD, 0x24, some ⟨0x8001, 0xA9, 0x00, 0x00, 0x00, 0xFD, 0x24⟩) := by decide
/-- Reset takes pc from the vector, low byte first, keeps memory and makes a Halted machine Running (R300). -/
theorem test_reset_vector : State.cpuReset { State.reset with mem := [(0xFFFC, 0x34), (0xFFFD, 0x12)], run := .halted }
    = { State.reset with mem := [(0xFFFC, 0x34), (0xFFFD, 0x12)], pc := 0x1234 } := by decide
/-- The ports of R6 in the three run states (R270). -/
theorem test_ports : faultCode State.reset = 0 ∧ faultPort (raise (.outOfRangeAddress 0xFFFF) State.reset) = true
    ∧ faultCode (raise (.outOfRangeAddress 0xFFFF) State.reset) = 3
    ∧ faultCode (raise (.unrecognizedOpcode 0x02) State.reset) = 1
    ∧ haltedPort (State.reset.setRun .halted) = true ∧ haltedPort State.reset = false := by decide
/-- Writing 0x00 removes an entry, so equal memories are equal lists. -/
theorem test_memory_canonical : Memory.poke (Memory.poke (Memory.poke [] 5 0x01) 3 0x02) 5 0x00 = [(3, 0x02)]
    ∧ Memory.wf [(3, 0x02), (5, 0x01)] = true ∧ Memory.wf [(5, 0x01), (3, 0x02)] = false
    ∧ Memory.wf [(3, 0x00)] = false ∧ Memory.wf [(0xFFFF, 0x01)] = false := by decide
theorem test_reset_memory_wf : State.reset.mem.wf = true := by decide

/-! ## Witnesses: every statement's hypotheses are met

A state whose pc is `pc1` of an instruction at 0x8000, and one whose operand byte would lie at 0xFFFF. -/

def inside : State := { State.reset with pc := 0x8001, x := 0x02, y := 0x03 }
def atTop : State := { State.reset with pc := 0xFFFF }
def nearTop : State := { State.reset with pc := 0xFFFE }
/-- A state at 0x8000 with this memory. -/
def running (mem : Memory) : State := { State.reset with pc := 0x8000, mem := mem }
def ldaRun : State := running [(0x8000, 0xBD), (0x8001, 0x34), (0x8002, 0x12)]
def illegalRun : State := running [(0x8000, 0x02)]
def brkRun : State := running []
def bccRun : State := running [(0x8000, 0x90), (0x8001, 0xFF)]
def jmpRun : State := running [(0x8000, 0x4C), (0x8001, 0x01), (0x8002, 0x80)]
def jmpInPage : State := running [(0x0320, 0x01), (0x0321, 0x80), (0x8000, 0x6C), (0x8001, 0x20), (0x8002, 0x03)]
def jmpWrapping : State := running [(0x0300, 0x80), (0x03FF, 0x01), (0x8000, 0x6C), (0x8001, 0xFF), (0x8002, 0x03)]
def jsrRun : State := running [(0x8000, 0x20), (0x8001, 0x01), (0x8002, 0x80)]
def staRun : State := running [(0x8000, 0x85), (0x8001, 0x10)]
def jsrToRts : State := running [(0x8000, 0x20), (0x8001, 0x10), (0x8002, 0x80)]
def rtsRun : State := { running [(0x01FC, 0x02), (0x01FD, 0x80), (0x8010, 0x60)] with pc := 0x8010, sp := 0xFB }

theorem witness_EncodeOfDecode : decode [0xBD, 0x34, 0x12, 0x99] = .ok (.ldaAbsX 0x1234, [0x99]) := rfl
theorem witness_LengthIsTold : (Instr.ldaImm 0x01).opcode = (Instr.ldaImm 0x02).opcode
    ∧ Instr.aslAcc.form = .accumulator ∧ (Instr.bne 0).form = .relative ∧ (Instr.jmpInd 0).form = .indirectJump := by decide
theorem witness_StepRunsDecoded : ldaRun.run = .running
    ∧ BytesAt ldaRun ldaRun.pc [0xBD, 0x34, 0x12]
    ∧ decode [0xBD, 0x34, 0x12] = .ok (.ldaAbsX 0x1234, []) ∧ (Instr.ldaAbsX 0x1234).wf = true := by
  unfold BytesAt; decide +kernel
theorem witness_IllegalOpcode : illegalRun.run = .running
    ∧ memRead illegalRun illegalRun.pc = .ok 0x02 ∧ opRow? 0x02 = none :=
  ⟨by decide, by decide, rfl⟩
theorem witness_OpcodeFetchAtMissingByte : atTop.run = .running ∧ atTop.pc = 0xFFFF#16 := by decide
theorem witness_HaltedAndFaulted : (State.reset.setRun .halted).run = .halted
    ∧ (raise (.unrecognizedOpcode 0x02) State.reset).run = .faulted (.unrecognizedOpcode 0x02) := by decide
theorem witness_RunningStep : State.reset.run = .running := rfl
theorem witness_BrkHalts : brkRun.run = .running
    ∧ memRead brkRun brkRun.pc = .ok 0x00 := by decide
theorem witness_TransferToPc1_branch : BytesAt bccRun bccRun.pc [0x90, 0xFF] := by
  unfold BytesAt; decide +kernel
theorem witness_TransferToPc1_jump : BytesAt jmpRun jmpRun.pc
    [0x4C, lowByte (jmpRun.pc + 1), highByte (jmpRun.pc + 1)] := by
  unfold BytesAt; decide +kernel
/-- A pointer inside a page, and one at its end, whose high byte is read at the page's start. -/
theorem witness_TransferToPc1_indirect :
    (BytesAt jmpInPage 0x8000 [0x6C, 0x20, 0x03]
      ∧ memRead jmpInPage 0x0320 = .ok 0x01
      ∧ memRead jmpInPage 0x0321 = .ok 0x80)
    ∧ (BytesAt jmpWrapping 0x8000 [0x6C, 0xFF, 0x03]
      ∧ memRead jmpWrapping 0x03FF = .ok 0x01
      ∧ memRead jmpWrapping (0x03FF &&& 0xFF00)
        = .ok 0x80) := by
  unfold BytesAt; decide +kernel
theorem witness_TransferToPc1_call : BytesAt jsrRun jsrRun.pc
      [0x20, lowByte (jsrRun.pc + 1), highByte (jsrRun.pc + 1)]
    ∧ ∀ a ∈ [jsrRun.pc + 1, jsrRun.pc + 2],
        a ≠ stackAddress jsrRun
          ∧ a ≠ stackAddress { jsrRun with sp := jsrRun.sp - 1 } := by
  refine ⟨by unfold BytesAt; decide +kernel, fun a ha => ?_⟩
  rcases List.mem_pair.mp ha with rfl | rfl <;> decide
theorem witness_TraceTap : (memRead brkRun brkRun.pc = .ok 0x00 ∧ (opRow? 0x00).isSome = true)
    ∧ (State.reset.setRun .halted).run ≠ .running ∧ atTop.pc = 0xFFFF#16
    ∧ memRead illegalRun illegalRun.pc = .ok 0x02 := by decide
theorem witness_StatusInv : StatusInv State.reset ∧ ∃ t, step State.reset = .next t := ⟨⟨rfl, rfl⟩, _, rfl⟩
theorem witness_MemoryForm : staRun.wf = true ∧ ∃ t, step staRun = .next t :=
  ⟨by decide, _, rfl⟩
theorem witness_ByteReadAndWrite : (0xFFFE : Word) ≠ 0xFFFF#16 ∧ (0x0000 : Word) ≠ 0xFFFF#16 := by decide
theorem witness_WordWrite : (0xFFFD : Word).toNat ≤ 0xFFFD ∧ (0x0000 : Word).toNat ≤ 0xFFFD := by decide
/-- The last address with two operand bytes after it, and a pointer across the end of page zero. -/
theorem witness_EffectiveAddresses : ({ inside with pc := 0xFFFD } : State).pc ≠ 0xFFFF#16
    ∧ ({ inside with pc := 0xFFFD } : State).pc ≠ 0xFFFE#16 ∧ nearTop.pc ≠ 0xFFFF#16
    ∧ memRead inside (BitVec.ofNat 16 (((0xFD : Byte).toNat + inside.x.toNat) % 256)) = .ok 0x00
    ∧ memRead inside (BitVec.ofNat 16 (((0xFD : Byte).toNat + inside.x.toNat + 1) % 256)) = .ok 0x00
    ∧ memRead inside (BitVec.ofNat 16 (0xFF : Byte).toNat) = .ok 0x00
    ∧ memRead inside (BitVec.ofNat 16 (((0xFF : Byte).toNat + 1) % 256)) = .ok 0x00 := by decide

/-- An instruction with an operand byte faults with pc1 at 0xFFFF. -/
theorem missing_atTop (i : Instr) (h : i.operand.bytes.length ≠ 0) : OperandFaults i atTop :=
  .inl ⟨0, Nat.pos_of_ne_zero h, by decide⟩

/-- An instruction with two operand bytes faults with pc1 at 0xFFFE. -/
theorem missing_nearTop (i : Instr) (h : i.operand.bytes.length = 2) : OperandFaults i nearTop :=
  .inl ⟨1, by omega, by decide⟩

/-- The two operand bytes of a jump exist at 0x8001 and 0x8002. -/
theorem present_inside (i : Instr) (h : i.operand.bytes.length = 2) : ¬ OperandByteMissing i inside := by
  rintro ⟨k, hk, hp⟩
  have : k = 0 ∨ k = 1 := by omega
  rcases this with rfl | rfl <;> exact absurd hp (by decide)

theorem witness_OperandReads : (Instr.ldaAbs 0xFFFE).form.mode ≠ .noneAddressing
    ∧ resolve (Instr.ldaAbs 0xFFFE).operand inside = .ok 0xFFFE ∧ Instr.tax.form.mode = .noneAddressing
    ∧ (Instr.ldaImm 0x05).operand = .immediate 0x05 ∧ inside.pc ≠ 0xFFFF#16 := by decide
theorem witness_OperandReads_faults : OperandFaults (.ldaAbs 0xFFFF) inside ∧ OperandFaults (.ldaImm 0x05) atTop
    ∧ OperandByteMissing (.ldaAbs 0x1234) nearTop ∧ ¬ OperandByteMissing (.ldaAbs 0x1234) inside :=
  ⟨.inr (by decide), missing_atTop _ (by decide), ⟨1, by decide, by decide⟩, present_inside _ (by decide)⟩
theorem witness_DecodedOperand : ∃ t, fetch ldaRun = .decoded (.ldaAbsX 0x1234) 3 t := ⟨_, rfl⟩

/-- An operand that can be read, an effective address that is 0xFFFF, and an operand byte that is missing,
for an instruction that reads its operand. -/
def ReadWitness (m : Mnemonic) (i j : Instr) : Prop :=
  i.mnemonic = m ∧ j.mnemonic = m ∧ (∃ v, readOperand i.operand inside = .ok v) ∧ OperandFaults j inside
    ∧ OperandFaults j nearTop

theorem readWitness {m : Mnemonic} {i j : Instr} (hi : i.mnemonic = m) (hj : j.mnemonic = m)
    (hr : ∃ v, readOperand i.operand inside = .ok v) (ha : resolve j.operand inside = .ok 0xFFFF#16)
    (hl : j.operand.bytes.length = 2) : ReadWitness m i j :=
  ⟨hi, hj, hr, .inr ha, missing_nearTop j hl⟩

theorem witness_LdaLoads : ReadWitness .lda (.ldaIndY 0xFF) (.ldaAbsX 0xFFFD) := readWitness rfl rfl ⟨_, rfl⟩ rfl rfl
theorem witness_LdxAndLdyLoad : ReadWitness .ldx (.ldxZpY 0xFF) (.ldxAbsY 0xFFFC) ∧ ReadWitness .ldy (.ldyZpX 0xFF) (.ldyAbsX 0xFFFD) :=
  ⟨readWitness rfl rfl ⟨_, rfl⟩ rfl rfl, readWitness rfl rfl ⟨_, rfl⟩ rfl rfl⟩
theorem witness_AndEorOraCombine : ReadWitness .and (.andIndX 0xFF) (.andAbs 0xFFFF) ∧ ReadWitness .eor (.eorImm 0xFF) (.eorAbs 0xFFFF) ∧ ReadWitness .ora (.oraZp 0xFF) (.oraAbsY 0xFFFC) :=
  ⟨readWitness rfl rfl ⟨_, rfl⟩ rfl rfl, readWitness rfl rfl ⟨_, rfl⟩ rfl rfl, readWitness rfl rfl ⟨_, rfl⟩ rfl rfl⟩
theorem witness_BitTests : ReadWitness .bit (.bitAbs 0xFFFE) (.bitAbs 0xFFFF) := readWitness rfl rfl ⟨_, rfl⟩ rfl rfl
theorem witness_AdcAdds : ReadWitness .adc (.adcImm 0x01) (.adcAbs 0xFFFF) := readWitness rfl rfl ⟨_, rfl⟩ rfl rfl
theorem witness_SbcSubtracts : ReadWitness .sbc (.sbcImm 0x01) (.sbcAbs 0xFFFF) := readWitness rfl rfl ⟨_, rfl⟩ rfl rfl
theorem witness_Compares : ReadWitness .cmp (.cmpImm 0x05) (.cmpAbs 0xFFFF) ∧ ReadWitness .cpx (.cpxImm 0x05) (.cpxAbs 0xFFFF) ∧ ReadWitness .cpy (.cpyImm 0x05) (.cpyAbs 0xFFFF) :=
  ⟨readWitness rfl rfl ⟨_, rfl⟩ rfl rfl, readWitness rfl rfl ⟨_, rfl⟩ rfl rfl, readWitness rfl rfl ⟨_, rfl⟩ rfl rfl⟩

theorem witness_CarryChain : readOperand (Instr.cmpImm 0x80).operand inside = .ok 0x80
    ∧ readOperand (Instr.sbcImm 0x80).operand inside = .ok 0x80 ∧ readOperand (Instr.adcImm 0x80).operand inside = .ok 0x80
    ∧ ({ inside with a := 0x02 } : State).x = ({ inside with a := 0x02 } : State).a
    ∧ ({ inside with a := 0x03 } : State).y = ({ inside with a := 0x03 } : State).a
    ∧ readOperand (Instr.cpxImm 0x80).operand { inside with a := 0x02 } = .ok 0x80
    ∧ readOperand (Instr.cpyImm 0x80).operand { inside with a := 0x03 } = .ok 0x80 := by decide

/-- An effective address that exists, one that is 0xFFFF, and an operand byte that is missing, for an
instruction that stores to its operand. -/
def StoreWitness (m : Mnemonic) (i j : Instr) : Prop :=
  i.mnemonic = m ∧ j.mnemonic = m ∧ j.form ≠ .accumulator ∧ i.form ≠ .accumulator
    ∧ (∃ ea v, resolve i.operand inside = .ok ea ∧ ea ≠ 0xFFFF#16 ∧ memRead inside ea = .ok v)
    ∧ OperandFaults j inside ∧ OperandFaults j nearTop

theorem storeWitness {m : Mnemonic} {i j : Instr} (hi : i.mnemonic = m) (hj : j.mnemonic = m)
    (hf : j.form ≠ .accumulator) (hg : i.form ≠ .accumulator)
    (hr : ∃ ea v, resolve i.operand inside = .ok ea ∧ ea ≠ 0xFFFF#16 ∧ memRead inside ea = .ok v)
    (ha : resolve j.operand inside = .ok 0xFFFF#16) (hl : j.operand.bytes.length = 2) : StoreWitness m i j :=
  ⟨hi, hj, hf, hg, hr, .inr ha, missing_nearTop j hl⟩

theorem witness_StaStores : StoreWitness .sta (.staAbs 0xFFFE) (.staAbs 0xFFFF) :=
  storeWitness rfl rfl (by decide) (by decide) ⟨_, _, rfl, by decide, rfl⟩ rfl rfl
theorem witness_StxAndStyStore : StoreWitness .stx (.stxZpY 0xFF) (.stxAbs 0xFFFF) ∧ StoreWitness .sty (.styZpX 0xFF) (.styAbs 0xFFFF) :=
  ⟨storeWitness rfl rfl (by decide) (by decide) ⟨_, _, rfl, by decide, rfl⟩ rfl rfl,
    storeWitness rfl rfl (by decide) (by decide) ⟨_, _, rfl, by decide, rfl⟩ rfl rfl⟩
theorem witness_IncAdds : StoreWitness .inc (.incZpX 0xFF) (.incAbsX 0xFFFD) :=
  storeWitness rfl rfl (by decide) (by decide) ⟨_, _, rfl, by decide, rfl⟩ rfl rfl
theorem witness_DecSubtracts : StoreWitness .dec (.decZp 0xFF) (.decAbs 0xFFFF) :=
  storeWitness rfl rfl (by decide) (by decide) ⟨_, _, rfl, by decide, rfl⟩ rfl rfl
theorem witness_AslShifts : StoreWitness .asl (.aslZp 0x10) (.aslAbs 0xFFFF) :=
  storeWitness rfl rfl (by decide) (by decide) ⟨_, _, rfl, by decide, rfl⟩ rfl rfl
theorem witness_LsrShifts : StoreWitness .lsr (.lsrZp 0x10) (.lsrAbs 0xFFFF) :=
  storeWitness rfl rfl (by decide) (by decide) ⟨_, _, rfl, by decide, rfl⟩ rfl rfl
theorem witness_RolRotates : StoreWitness .rol (.rolZp 0x10) (.rolAbs 0xFFFF) :=
  storeWitness rfl rfl (by decide) (by decide) ⟨_, _, rfl, by decide, rfl⟩ rfl rfl
theorem witness_RorRotates : StoreWitness .ror (.rorZp 0x10) (.rorAbs 0xFFFF) :=
  storeWitness rfl rfl (by decide) (by decide) ⟨_, _, rfl, by decide, rfl⟩ rfl rfl

theorem witness_JmpAbsolute : ¬ OperandByteMissing (.jmpAbs 0xFFFF) inside ∧ OperandByteMissing (.jmpAbs 0x1234) atTop
    ∧ OperandByteMissing (.jmpAbs 0x1234) nearTop :=
  ⟨present_inside _ (by decide), ⟨0, by decide, by decide⟩, ⟨1, by decide, by decide⟩⟩
/-- A pointer inside a page, one at the end of a page, and the two that raise. -/
theorem witness_JmpIndirect : ¬ OperandByteMissing (.jmpInd 0x30FF) inside
    ∧ (memRead inside 0x30FE = .ok 0x00 ∧ memRead inside (0x30FE + 1) = .ok 0x00)
    ∧ (memRead inside 0x30FF = .ok 0x00 ∧ memRead inside (0x30FF &&& 0xFF00) = .ok 0x00)
    ∧ OperandByteMissing (.jmpInd 0x1234) nearTop :=
  ⟨present_inside _ (by decide), by decide, by decide, ⟨1, by decide, by decide⟩⟩
theorem witness_JmpAbsolute_pc1 : BytesAt jmpRun jmpRun.pc [0x4C, lowByte (jmpRun.pc + 1), highByte (jmpRun.pc + 1)] :=
  witness_TransferToPc1_jump
theorem witness_JmpIndirect_pc1 : BytesAt jmpWrapping 0x8000 [0x6C, 0xFF, 0x03]
    ∧ memRead jmpWrapping 0x03FF = .ok 0x01 ∧ memRead jmpWrapping (0x03FF &&& 0xFF00) = .ok 0x80 :=
  witness_TransferToPc1_indirect.2
theorem witness_Jsr : ¬ OperandByteMissing (.jsr 0x8010) inside ∧ OperandByteMissing (.jsr 0x8010) nearTop
    ∧ ∀ a ∈ [inside.pc, inside.pc + 1],
      a ≠ stackAddress inside ∧ a ≠ stackAddress { inside with sp := inside.sp - 1 } :=
  ⟨present_inside _ (by decide), ⟨1, by decide, by decide⟩, fun a ha => by
    rcases List.mem_pair.mp ha with rfl | rfl <;> decide⟩
theorem witness_Branches : nearTop.pc ≠ 0xFFFF#16 ∧ atTop.pc = 0xFFFF#16 := by decide
/-- The JSR of program P7, and the state at its RTS. -/
theorem witness_RtsReturns : BytesAt jsrToRts jsrToRts.pc [0x20, 0x10, 0x80]
    ∧ memRead rtsRun 0x8010 = .ok 0x60
    ∧ rtsRun.sp
      = jsrToRts.sp - 2
    ∧ (∃ u, step jsrToRts = .next u ∧ rtsRun.sp = u.sp
      ∧ ∀ k ∈ [1, 2], memRead rtsRun (stackAddress { u with sp := u.sp + k })
        = memRead u (stackAddress { u with sp := u.sp + k })) := by
  refine ⟨by unfold BytesAt; decide +kernel, by decide, by decide, _, rfl, by decide, fun k hk => ?_⟩
  rcases List.mem_pair.mp hk with rfl | rfl <;> decide
theorem witness_OnlyListed : writesMemory (.ldaImm 0x05) = false ∧ writesReg (.ldaImm 0x05) .x = false
    ∧ writesPc (.ldaImm 0x05) = false ∧ Mnemonic.lda ∉ flagWriters .c ∧ ∃ t, exec (.ldaImm 0x05) inside = .next t :=
  ⟨by decide, by decide, by decide, by decide, _, rfl⟩
theorem witness_PlpWritesFlags : Instr.plp.mnemonic = .plp ∧ ∃ t, exec .plp inside = .next t := ⟨rfl, _, rfl⟩
theorem witness_InterruptDisableAndDecimal : (Instr.adcImm 0x01).mnemonic ≠ .php
    ∧ ∃ t, exec (.adcImm 0x01) inside = .next t := ⟨by decide, _, rfl⟩
theorem witness_Launch : ([0xA9, 0x05, 0x00] : List Byte).length ≤ 0x7FFF
    ∧ 0x7FFF < (List.replicate 0x8000 (0x00 : Byte)).length :=
  ⟨by decide, by rw [List.length_replicate]; decide⟩

end Sys2Proof.Tests
end

section
/-! SUPPORT. Byte and word accesses (spec/20_memory.md R52 to R55): what one reads, what one stores and
what it leaves unchanged, and the two statements about them. -/

namespace Sys2Proof.Machine

/-! ## Byte accesses -/

theorem memWrite_of_ne {s : State} {a : Word} (v : Byte) (h : a ≠ 0xFFFF#16) :
    memWrite s a v = .ok (s.setMem (s.mem.poke a.toNat v)) := by simp [memWrite_eq, h]

theorem storedOnly_poke (s : State) {a : Word} (v : Byte) (h : a ≠ 0xFFFF#16) :
    StoredOnly a v s (s.setMem (s.mem.poke a.toNat v)) :=
  ⟨by simp [memRead_poke s a a v h], fun b hb => by simp [memRead_poke s a b v h, hb]⟩

/-! ## Word accesses -/

/-- A word read puts together the bytes that its two byte reads give. -/
theorem memRead16_of_memRead {s : State} {a : Word} {lo hi : Byte} (hlo : memRead s a = .ok lo)
    (hhi : memRead s (a + 1) = .ok hi) : memRead16 s a = .ok (wordOf hi lo) := by
  simp only [memRead16, hlo, hhi]

/-- A word write is the low byte's write, then the high byte's. -/
theorem memWrite16_of_ne (s : State) {a : Word} (w : Word) (h : a ≠ 0xFFFF#16) (h' : a + 1 ≠ 0xFFFF#16) :
    ∃ t u, memWrite16 s a w = .next u ∧ u = { s with mem := u.mem } ∧
      StoredOnly a (lowByte w) s t ∧ StoredOnly (a + 1) (highByte w) t u :=
  ⟨_, _, by rw [memWrite16, memWrite_of_ne _ h, withValue_ok, memWrite_of_ne _ h', withValue_ok], rfl,
    storedOnly_poke s _ h, storedOnly_poke _ _ h'⟩

/-- Both bytes of a word at an address up to 0xFFFD exist. -/
theorem ne_top_of_le {a : Word} (h : a.toNat ≤ 0xFFFD) : a ≠ 0xFFFF#16 ∧ a + 1 ≠ 0xFFFF#16 := by
  constructor <;> bv_omega

/-- At 0xFFFE the high byte's read raises. -/
theorem memRead16_nearTop (s : State) : memRead16 s 0xFFFE#16 = .error (.outOfRangeAddress 0xFFFF#16) := rfl

/-- At 0xFFFE the high byte's write raises, the low byte's being made. -/
theorem memWrite16_nearTop (s : State) (w : Word) : memWrite16 s 0xFFFE#16 w
    = .next (raise (.outOfRangeAddress 0xFFFF#16) (s.setMem (s.mem.poke (0xFFFE#16).toNat (lowByte w)))) := rfl

theorem memRead16_top (s : State) : memRead16 s 0xFFFF#16 = .error (.outOfRangeAddress 0xFFFF#16) := rfl

/-- At 0xFFFF the low byte's write raises. -/
theorem memWrite16_top (s : State) (w : Word) :
    memWrite16 s 0xFFFF#16 w = .next (raise (.outOfRangeAddress 0xFFFF#16) s) := rfl

/-! ## The statements -/

/-- Settles O18, by R51's one address with no byte. -/
theorem byteReadAndWrite : Obligations.ByteReadAndWrite := by
  intro s a v
  constructor
  · rintro rfl
    exact ⟨by simp [memRead_eq], by simp [memWrite_eq]⟩
  · intro h
    exact ⟨⟨_, memRead_of_ne h⟩, _, memWrite_of_ne v h, rfl, storedOnly_poke s v h⟩

/-- Settles O19: the high byte's write keeps the low byte, the two addresses being different. -/
theorem wordWriteThenReadReturnsWord : Obligations.WordWriteThenReadReturnsWord := by
  intro s a w
  refine ⟨fun h => ?_, ?_, ?_⟩
  · obtain ⟨ha, ha'⟩ := ne_top_of_le h
    obtain ⟨t, u, hw, hu, ⟨hlo, hkept⟩, hhi, hkept'⟩ := memWrite16_of_ne s w ha ha'
    have hlo' : memRead u a = .ok (lowByte w) := (hkept' a (by bv_omega)).trans hlo
    refine ⟨u, hw, hu, ?_, hlo', hhi, fun b hb hb' => (hkept' b hb').trans (hkept b hb), ?_⟩
    · rw [memRead16_of_memRead hlo' hhi, wordOf_highByte_lowByte]
    · exact ⟨_, _, memRead_of_ne ha, memRead_of_ne ha', memRead16_eq ha ha'⟩
  · rintro rfl
    exact ⟨memRead16_nearTop s, _, memWrite16_nearTop s w, rfl, storedOnly_poke s _ (by decide)⟩
  · rintro rfl
    exact ⟨memRead16_top s, memWrite16_top s w⟩

end Sys2Proof.Machine
end

section
/-! SUPPORT. One step of a Running machine (spec/41_execution_cycle.md R131, R134): what the fetch makes of
the bytes at `pc`, that every handler answers a next state, and the generic advance counted from `pc0`. -/

namespace Sys2Proof.Machine

/-! ## Bytes in memory -/

theorem bytesAt_cons {s : State} {a : Word} {b : Byte} {bs : List Byte} (h : BytesAt s a (b :: bs)) :
    memRead s a = .ok b ∧ BytesAt s (a + 1) bs := by
  constructor
  · have hhead := h 0 (Nat.zero_lt_succ _)
    rwa [BitVec.add_zero] at hhead
  · intro k hk
    have hnext := h (k + 1) (by simpa using hk)
    rwa [show a + BitVec.ofNat 16 (k + 1) = a + 1 + BitVec.ofNat 16 k by
      rw [BitVec.ofNat_add]; ac_rfl] at hnext

/-- A read that does not raise gives what memory holds at the address. -/
theorem peek_of_memRead {s : State} {a : Word} {v : Byte} (h : memRead s a = .ok v) : s.mem.peek a.toNat = v := by
  rw [memRead_eq] at h
  split at h
  · cases h
  · exact Except.ok.inj h

/-- A row whose operand bytes lie at `a` finds them there. -/
theorem operandBytes_of_bytesAt {s : State} {a : Word} {build : Build} {b1 b2 : Byte} {rest : List Byte}
    (h : BytesAt s a (build.operandBytes b1 b2 ++ rest)) :
    build.operandBytes (s.mem.peek a.toNat) (s.mem.peek (a + 1).toNat) = build.operandBytes b1 b2 := by
  cases build with
  | plain i => rfl
  | byte f =>
    obtain ⟨h1, -⟩ := bytesAt_cons h
    simp only [Build.operandBytes, peek_of_memRead h1]
  | word f =>
    obtain ⟨h1, hrest⟩ := bytesAt_cons h
    obtain ⟨h2, -⟩ := bytesAt_cons hrest
    simp only [Build.operandBytes, lowByte_wordOf, highByte_wordOf] at h1 h2 ⊢
    rw [peek_of_memRead h1, peek_of_memRead h2]

/-! ## The fetch -/

theorem encode_length (i : Instr) : (encode i).length = i.length := by
  have hform : ∀ o : Operand, o.bytes.length + 1 = o.form.length := by intro o; cases o <;> rfl
  exact hform i.operand

/-- The fetch and the decoder agree: where the bytes at `pc` decode to an instruction, the fetch gives that
instruction and enters its handler with `pc = pc1`. -/
theorem fetch_of_decode {s : State} {bs rest : List Byte} {i : Instr} (hbytes : BytesAt s s.pc bs)
    (hdecode : decode bs = .ok (i, rest)) : fetch s = .decoded i (encode i).length (s.setPc (s.pc + 1)) := by
  obtain ⟨row, -, b1, b2, hrow, rfl, rfl⟩ := decode_cases hdecode
  obtain ⟨hop, hoperands⟩ := bytesAt_cons hbytes
  have happly := Build.apply_congr (operandBytes_of_bytesAt hoperands)
  rw [show s.pc + 1 + 1 = s.pc + 2 from BitVec.add_assoc ..] at happly
  have hfetch : fetch s = .decoded (row.build.apply b1 b2) row.desc.length (s.setPc (s.pc + 1)) := by
    simp only [fetch, hop, hrow, happly]
  obtain ⟨-, -, hlen, -, -⟩ := fetch_decoded hfetch
  rw [hfetch, hlen, encode_length]

/-! ## Every handler answers a next state -/

theorem withValue_answers {α : Type} {k : α → Result} (h : ∀ v, ∃ t, k v = .next t) (r : Except FatalCondition α)
    (s : State) : ∃ t, withValue r s k = .next t := by
  cases r with
  | ok v => exact h v
  | error c => exact ⟨raise c s, rfl⟩

theorem modify_answers (o : Operand) (value status : Byte → Byte) (s : State) :
    ∃ t, modify o value status s = .next t :=
  withValue_answers (fun _ => withValue_answers (fun _ => withValue_answers (fun _ => ⟨_, rfl⟩) _ _) _ _) _ _

theorem store_answers (r : Reg) (o : Operand) (s : State) : ∃ t, store r o s = .next t :=
  withValue_answers (fun _ => withValue_answers (fun _ => ⟨_, rfl⟩) _ _) _ _

theorem shift_answers (k : Shift) (o : Operand) (s : State) : ∃ t, shift k o s = .next t := by
  unfold shift
  split
  · exact ⟨_, rfl⟩
  · exact modify_answers _ _ _ s

theorem jump_answers (o : Operand) (s : State) : ∃ t, jump o s = .next t := by
  unfold jump
  split
  · exact withValue_answers (fun _ => ⟨_, rfl⟩) _ _
  · exact withValue_answers (fun _ => withValue_answers (fun _ => ⟨_, rfl⟩) _ _) _ _
  · exact ⟨_, rfl⟩

/-- No handler ends in a fault or a refusal: a fatal condition too is a next state (log entry 3). -/
theorem exec_answers (i : Instr) (s : State) : ∃ t, exec i s = .next t := by
  rw [exec_eq_handlerOf]
  cases i.mnemonic with
  | lda | ldx | ldy | and | eor | ora | bit | adc | sbc | cmp | cpx | cpy
  | bcc | bcs | beq | bmi | bne | bpl | bvc | bvs | jsr => exact withValue_answers (fun _ => ⟨_, rfl⟩) _ _
  | sta | stx | sty => exact store_answers _ _ s
  | inc | dec => exact modify_answers _ _ _ s
  | asl | lsr | rol | ror => exact shift_answers _ _ s
  | jmp => exact jump_answers _ s
  | tax | tay | tsx | txa | txs | tya | inx | iny | dex | dey | pha | php | pla | plp | rti | rts
  | clc | cld | cli | clv | sec | sed | sei | nop | brk => exact ⟨_, rfl⟩

/-! ## The step -/

/-- The generic advance counted from `pc0`: `pc1 + length - 1` is `pc0 + length` (R134). -/
theorem advanced_from_pc0 (pc0 : Word) {n : Nat} (hn : 0 < n) (t : State) :
    advanced (pc0 + 1) n t
      = if t.run = .running ∧ t.pc = pc0 + 1 then { t with pc := pc0 + BitVec.ofNat 16 n } else t := by
  have hsum : pc0 + 1 + BitVec.ofNat 16 (n - 1) = pc0 + BitVec.ofNat 16 n := by
    obtain ⟨k, rfl⟩ := Nat.exists_eq_add_of_lt hn
    simp only [Nat.zero_add, Nat.add_sub_cancel, BitVec.ofNat_add]
    ac_rfl
  rw [advanced, hsum]
  rfl

/-- A step whose fetch and handler go through ends with the generic advance. -/
theorem step_of_fetch {s t u : State} {i : Instr} {n : Nat} (hrun : s.run = .running)
    (hfetch : fetch s = .decoded i n t) (hexec : exec i t = .next u) : step s = .next (advanced t.pc n u) := by
  simp only [step, hrun, hfetch, hexec, advance]

/-- Settles O6: the fetch and the decoder agree on the bytes at `pc`, and every handler answers a next
state, which the generic advance finishes. -/
theorem stepRunsDecodedInstruction : Obligations.StepRunsDecodedInstruction := by
  intro s bs i hrun hbytes hdecode _
  obtain ⟨t, hexec⟩ := exec_answers i (s.setPc (s.pc + 1))
  refine ⟨t, hexec, ?_⟩
  rw [step_of_fetch hrun (fetch_of_decode hbytes hdecode) hexec, State.setPc_pc,
    advanced_from_pc0 s.pc (by simp [encode])]

end Sys2Proof.Machine
end

section
/-! SUPPORT. What the table and the operand forms give every statement about a mnemonic: its encodings
(spec/30_encoding.md R86), where its operand can be read (spec/60_exceptions.md R273), and the answer that
follows a result with Z and N (spec/10_state.md R33). -/

namespace Sys2Proof.Machine

/-! ## Encodings -/

/-- The opcode bytes and forms of a mnemonic's rows, in the order of the table. -/
def encodingsOf (m : Mnemonic) : List (Byte × Form) :=
  (opTable.filter fun row => row.desc.mnemonic == m).map fun row => (row.opcode, row.desc.form)

theorem mem_encodingsOf {m : Mnemonic} {e : Byte × Form} :
    e ∈ encodingsOf m ↔ ∃ row ∈ opTable, row.desc.mnemonic = m ∧ row.opcode = e.1 ∧ row.desc.form = e.2 := by
  simp [encodingsOf, Prod.ext_iff, and_assoc]

/-- The lookup of a row's own opcode gives that row's mnemonic and form: it gives the row of an
instruction that the row builds. -/
theorem opRow?_opcode {row : OpRow} (h : row ∈ opTable) :
    (opRow? row.opcode).map (fun found => (found.desc.mnemonic, found.desc.form))
      = some (row.desc.mnemonic, row.desc.form) := by
  obtain ⟨hop, hmn, hform, -⟩ := opTable_describes h 0 0
  obtain ⟨found, hfound, -, hmn', hform', -⟩ := Laws.encodesARow (row.build.apply 0 0)
  rw [← hop, hfound, ← hmn, ← hform, ← hmn', ← hform', Option.map_some]

theorem hasEncodings_of_table {m : Mnemonic} {l : List (Byte × Form)} (h : encodingsOf m = l) : HasEncodings m l := by
  subst h
  constructor
  · intro i hi
    obtain ⟨row, hrow, hop, hmn, hform, -⟩ := Laws.encodesARow i
    exact mem_encodingsOf.2 ⟨row, (opRow?_mem hrow).1, hmn.trans hi, hop, hform⟩
  · intro e he
    obtain ⟨row, hrow, hmn, hop, hform⟩ := mem_encodingsOf.1 he
    rw [← hop, opRow?_opcode hrow, hmn, hform]

/-! ## Where an operand can be read -/

theorem operandByte_ok {b c : Byte} {s : State} (h : operandByte b s = .ok c) : s.pc ≠ 0xFFFF#16 := by
  rw [operandByte_eq] at h
  split at h
  · cases h
  · assumption

theorem operandWord_ok {w v : Word} {s : State} (h : operandWord w s = .ok v) :
    s.pc ≠ 0xFFFF#16 ∧ s.pc + 1#16 ≠ 0xFFFF#16 := by
  rw [operandWord_eq] at h
  split at h
  · cases h
  · exact not_or.1 ‹_›

/-- Where the resolver gives an address that exists, so do the addresses of the operand bytes. An
Immediate's effective address is that of its operand byte (R111). -/
theorem operandBytes_exist_of_resolve {o : Operand} {s : State} {ea : Word} (h : resolve o s = .ok ea)
    (hea : ea ≠ 0xFFFF#16) : ∀ k < o.bytes.length, s.pc + BitVec.ofNat 16 k ≠ 0xFFFF#16 := by
  have one : s.pc ≠ 0xFFFF#16 → ∀ k < 1, s.pc + BitVec.ofNat 16 k ≠ 0xFFFF#16 := by
    intro hpc k hk
    obtain rfl : k = 0 := by omega
    simpa using hpc
  have two : s.pc ≠ 0xFFFF#16 ∧ s.pc + 1#16 ≠ 0xFFFF#16 → ∀ k < 2, s.pc + BitVec.ofNat 16 k ≠ 0xFFFF#16 := by
    rintro ⟨hpc, hpc'⟩ k hk
    obtain rfl | rfl : k = 0 ∨ k = 1 := by omega
    · simpa using hpc
    · exact hpc'
  cases o with
  | immediate b => cases h; exact one hea
  | zeroPage z | zeroPageX z | zeroPageY z | indirectX z | indirectY z =>
    cases hbyte : operandByte z s with
    | ok b => exact one (operandByte_ok hbyte)
    | error c => simp [resolve, hbyte, Except.map] at h
  | absolute w | absoluteX w | absoluteY w =>
    cases hword : operandWord w s with
    | ok v => exact two (operandWord_ok hword)
    | error c => simp [resolve, hword, Except.map] at h
  | implied | accumulator | relative | absoluteJump | indirectJump => cases h

theorem resolve_of_readOperand {o : Operand} {s : State} {m : Byte} (h : readOperand o s = .ok m) :
    ∃ ea, resolve o s = .ok ea ∧ ea ≠ 0xFFFF#16 := by
  unfold readOperand at h
  split at h
  · exact ⟨s.pc, rfl, operandByte_ok h⟩
  · split at h
    · rename_i ea hea
      refine ⟨ea, hea, ?_⟩
      rintro rfl
      cases h
    · cases h

theorem not_operandFaults_of_resolve {i : Instr} {s : State} {ea : Word} (h : resolve i.operand s = .ok ea)
    (hea : ea ≠ 0xFFFF#16) : ¬ OperandFaults i s := by
  rintro (⟨k, hk, htop⟩ | htop)
  · exact operandBytes_exist_of_resolve h hea k hk htop
  · exact hea (Except.ok.inj (h.symm.trans htop))

theorem not_operandFaults_of_readOperand {i : Instr} {s : State} {m : Byte} (h : readOperand i.operand s = .ok m) :
    ¬ OperandFaults i s := by
  obtain ⟨ea, hres, hea⟩ := resolve_of_readOperand h
  exact not_operandFaults_of_resolve hres hea

/-! ## A result with Z and N -/

theorem answersWithZN_of_setP {i : Instr} {s u : State} {v : Byte} (h : exec i s = .next (u.setP (setZN s.p v))) :
    AnswersWithZN i s u v := by
  refine ⟨_, h, rfl, ⟨by simp [getFlag_setZN], by simp [getFlag_setZN]⟩, fun f hf => ?_⟩
  obtain ⟨hz, hn⟩ : f ≠ .z ∧ f ≠ .n := by simpa using hf
  simp [getFlag_setZN, hz, hn, State.flag]

/-- The handler of a mnemonic runs each of its instructions. -/
theorem exec_of_mnemonic {i : Instr} {m : Mnemonic} (h : i.mnemonic = m) (s : State) :
    exec i s = handlerOf m i.operand s := by rw [exec_eq_handlerOf, h]

end Sys2Proof.Machine
end

section
/-! SUPPORT. Loads, stores and transfers (spec/42_load_store_transfer.md R150 to R161): what each shared
handler does for every mnemonic it serves, and the statements about them. -/

namespace Sys2Proof.Machine

/-! ## The shared handlers -/

/-- A load where its operand can be read, and where it raises: the two exclude each other, so the handler's
cases fall to one each. -/
theorem load_contract {m : Mnemonic} {r : Reg} (hm : handlerOf m = load r) (hmode : alwaysResolves m = true)
    (i : Instr) (s : State) (h : i.mnemonic = m) :
    (∀ v, readOperand i.operand s = .ok v → AnswersWithZN i s (s.setReg r v) v) ∧
      (OperandFaults i s → TakesOutOfRange i s) := by
  have hexec : exec i s = load r i.operand s := by rw [exec_of_mnemonic h, hm]
  constructor
  · intro v hv
    apply answersWithZN_of_setP
    rw [hexec, load, hv, withValue_ok, setResult]
  · intro hfaults
    rcases load_cases (resolvable_of_mnemonic (h ▸ hmode)) r s with hraise | ⟨v, hv, -⟩
    · exact hexec.trans hraise
    · exact absurd hfaults (not_operandFaults_of_readOperand hv)

/-- A store where its effective address exists, and where it raises. -/
theorem store_contract {m : Mnemonic} {r : Reg} (hm : handlerOf m = store r) (hmode : alwaysResolves m = true)
    (i : Instr) (s : State) (h : i.mnemonic = m) :
    (∀ ea, resolve i.operand s = .ok ea → ea ≠ 0xFFFF#16 →
        ∃ t, exec i s = .next t ∧ t = { s with mem := t.mem } ∧ StoredOnly ea (s.reg r) s t) ∧
      (OperandFaults i s → TakesOutOfRange i s) := by
  have hexec : exec i s = store r i.operand s := by rw [exec_of_mnemonic h, hm]
  constructor
  · intro ea hres hea
    refine ⟨s.setMem (s.mem.poke ea.toNat (s.reg r)), ?_, rfl, storedOnly_poke s _ hea⟩
    rw [hexec, store, hres, withValue_ok, writeTo_eq, if_neg hea]
  · intro hfaults
    rcases store_cases (resolvable_of_mnemonic (h ▸ hmode)) r s with hraise | ⟨ea, hea, hres, -⟩
    · exact hexec.trans hraise
    · exact absurd hfaults (not_operandFaults_of_resolve hres hea)

theorem transfer_answersWithZN {i : Instr} {src dst : Reg} {s : State} (h : exec i s = transfer src dst s) :
    AnswersWithZN i s (s.setReg dst (s.reg src)) (s.reg src) := answersWithZN_of_setP h

/-! ## The statements -/

/-- Settles O25, by the load handler's contract. -/
theorem ldaLoadsAccumulator : Obligations.LdaLoadsAccumulator :=
  ⟨hasEncodings_of_table rfl, load_contract (r := .a) rfl rfl⟩

/-- Settles O26, by the load handler's contract for X and for Y. -/
theorem ldxAndLdyLoadIndexRegisters : Obligations.LdxAndLdyLoadIndexRegisters :=
  ⟨⟨hasEncodings_of_table rfl, load_contract (r := .x) rfl rfl⟩,
    hasEncodings_of_table rfl, load_contract (r := .y) rfl rfl⟩

/-- Settles O27, by the store handler's contract. -/
theorem staStoresAccumulator : Obligations.StaStoresAccumulator :=
  ⟨hasEncodings_of_table rfl, store_contract (r := .a) rfl rfl⟩

/-- Settles O28, by the store handler's contract for X and for Y. -/
theorem stxAndStyStoreIndexRegisters : Obligations.StxAndStyStoreIndexRegisters :=
  ⟨⟨hasEncodings_of_table rfl, store_contract (r := .x) rfl rfl⟩,
    hasEncodings_of_table rfl, store_contract (r := .y) rfl rfl⟩

/-- Settles O29: each of the five is the transfer handler on its two registers. -/
theorem transfersCopyAndSetZN : Obligations.TransfersCopyAndSetZN :=
  ⟨hasEncodings_of_table rfl, hasEncodings_of_table rfl, hasEncodings_of_table rfl, hasEncodings_of_table rfl,
    hasEncodings_of_table rfl, fun _ =>
      ⟨transfer_answersWithZN (src := .a) (dst := .x) rfl, transfer_answersWithZN (src := .a) (dst := .y) rfl,
        transfer_answersWithZN (src := .x) (dst := .a) rfl, transfer_answersWithZN (src := .y) (dst := .a) rfl,
        transfer_answersWithZN (src := .s) (dst := .x) rfl⟩⟩

/-- Settles O30: TXS writes S alone, from X. -/
theorem txsCopiesWithoutFlags : Obligations.TxsCopiesWithoutFlags :=
  ⟨hasEncodings_of_table rfl, fun _ => rfl⟩

end Sys2Proof.Machine
end

section
/-! SUPPORT. Increments and decrements (spec/43_incdec.md R170 to R175): what the shared read-modify-write
answers where its byte can be read, and the statements about INC, DEC and the register forms. -/

namespace Sys2Proof.Machine

/-! ## Bytes mod 256 -/

theorem byte_add_one_toNat (b : Byte) : (b + 1).toNat = (b.toNat + 1) % 256 := BitVec.toNat_add b 1

theorem byte_sub_one_toNat (b : Byte) : (b - 1).toNat = (b.toNat + 255) % 256 :=
  (BitVec.toNat_sub b 1).trans (congrArg (· % 256) (Nat.add_comm 255 b.toNat))

/-! ## The register forms -/

theorem increment_answersWithZN {i : Instr} {r : Reg} {s : State} (h : exec i s = increment r s) :
    AnswersWithZN i s (s.setReg r (s.reg r + 1)) (s.reg r + 1) := answersWithZN_of_setP h

theorem decrement_answersWithZN {i : Instr} {r : Reg} {s : State} (h : exec i s = decrement r s) :
    AnswersWithZN i s (s.setReg r (s.reg r - 1)) (s.reg r - 1) := answersWithZN_of_setP h

/-! ## The memory forms -/

/-- Only an address that exists can be read (R51, R52). -/
theorem ne_top_of_memRead {s : State} {a : Word} {v : Byte} (h : memRead s a = .ok v) : a ≠ 0xFFFF#16 := by
  rintro rfl
  cases h

/-- What is stored is read from memory alone, whatever became of the other fields. -/
theorem storedOnly_of_mem {s t : State} {a : Word} {v : Byte} (h : a ≠ 0xFFFF#16)
    (ht : t.mem = s.mem.poke a.toNat v) : StoredOnly a v s t := by
  obtain ⟨hread, hkept⟩ := storedOnly_poke s v h
  exact ⟨(memRead_congr ht a).trans hread, fun b hb => (memRead_congr ht b).trans (hkept b hb)⟩

/-- A read-modify-write whose byte can be read stores the new value and writes P: the
write goes to the address just read, so it cannot raise. -/
theorem modify_of_memRead {o : Operand} {s : State} {ea : Word} {v : Byte} (hres : resolve o s = .ok ea)
    (hread : memRead s ea = .ok v) (value status : Byte → Byte) :
    modify o value status s = .next ((s.setMem (s.mem.poke ea.toNat (value v))).setP (status v)) := by
  rw [modify, hres, withValue_ok, hread, withValue_ok, memWrite_of_ne _ (ne_top_of_memRead hread), withValue_ok]

/-- INC and DEC as one: a mnemonic whose handler rewrites its byte by `f`, with Z and N of the new value,
where its byte can be read, and where it raises. -/
theorem modify_setZN_contract {m : Mnemonic} {f : Byte → Byte}
    (hm : handlerOf m = fun o s => modify o f (fun v => setZN s.p (f v)) s) (hmode : alwaysResolves m = true)
    (i : Instr) (s : State) (h : i.mnemonic = m) :
    (∀ ea v, resolve i.operand s = .ok ea → memRead s ea = .ok v →
        ∃ t, exec i s = .next t ∧ t = { s with mem := t.mem, p := t.p } ∧
          StoredOnly ea (f v) s t ∧ ZNOf (f v) t ∧ FlagsKept [.z, .n] s t) ∧
      (OperandFaults i s → TakesOutOfRange i s) := by
  have hexec : exec i s = modify i.operand f (fun v => setZN s.p (f v)) s := by rw [exec_of_mnemonic h, hm]
  constructor
  · intro ea v hres hread
    obtain ⟨t, hnext, ht, hzn, hkept⟩ :=
      answersWithZN_of_setP (hexec.trans (modify_of_memRead hres hread f _))
    have hmem : t.mem = s.mem.poke ea.toNat (f v) := congrArg State.mem ht
    exact ⟨t, hnext, hmem ▸ ht, storedOnly_of_mem (ne_top_of_memRead hread) hmem, hzn, hkept⟩
  · intro hfaults
    rcases modify_cases (resolvable_of_mnemonic (h ▸ hmode)) f _ s with hraise | ⟨ea, _, hea, hres, -⟩
    · exact hexec.trans hraise
    · exact absurd hfaults (not_operandFaults_of_resolve hres hea)

/-! ## The statements -/

/-- Settles O31: each of the four is the counting handler on its register. -/
theorem indexRegistersCountModulo256 : Obligations.IndexRegistersCountModulo256 :=
  ⟨hasEncodings_of_table rfl, hasEncodings_of_table rfl, hasEncodings_of_table rfl, hasEncodings_of_table rfl,
    fun b => ⟨byte_add_one_toNat b, byte_sub_one_toNat b⟩, fun _ =>
      ⟨increment_answersWithZN (r := .x) rfl, increment_answersWithZN (r := .y) rfl,
        decrement_answersWithZN (r := .x) rfl, decrement_answersWithZN (r := .y) rfl⟩⟩

/-- Settles O32, by the read-modify-write's contract for the successor. -/
theorem incAddsOneToMemory : Obligations.IncAddsOneToMemory :=
  ⟨hasEncodings_of_table rfl, modify_setZN_contract (f := fun v => v + 1) rfl rfl⟩

/-- Settles O33, by the read-modify-write's contract for the predecessor. -/
theorem decSubtractsOneFromMemory : Obligations.DecSubtractsOneFromMemory :=
  ⟨hasEncodings_of_table rfl, modify_setZN_contract (f := fun v => v - 1) rfl rfl⟩

end Sys2Proof.Machine
end

section
/-! SUPPORT. Bitwise logic and BIT (spec/44_logic.md R180 to R183): what every handler that reads its operand
first does, what the two logic handlers answer, and the statements about them. -/

namespace Sys2Proof.Machine

/-! ## Handlers that read their operand first -/

/-- A mnemonic whose handler reads its operand and goes on with the value does so where the operand can be
read, and raises where it cannot. -/
theorem withOperand_contract {m : Mnemonic} {k : State → Byte → Result}
    (hm : handlerOf m = fun o s => withValue (readOperand o s) s (k s)) (hmode : alwaysResolves m = true)
    (i : Instr) (s : State) (h : i.mnemonic = m) :
    (∀ v, readOperand i.operand s = .ok v → exec i s = k s v) ∧ (OperandFaults i s → TakesOutOfRange i s) := by
  have hexec : exec i s = withValue (readOperand i.operand s) s (k s) := by rw [exec_of_mnemonic h, hm]
  constructor
  · intro v hv
    rw [hexec, hv, withValue_ok]
  · intro hfaults
    rcases withOperand_cases (resolvable_of_mnemonic (h ▸ hmode)) s (k s) with hraise | ⟨v, hv, -⟩
    · exact hexec.trans hraise
    · exact absurd hfaults (not_operandFaults_of_readOperand hv)

/-! ## The shared handlers -/

/-- AND, EOR and ORA as one: a mnemonic whose handler combines A with its operand by `f`. -/
theorem logic_contract {m : Mnemonic} {f : Byte → Byte → Byte} (hm : handlerOf m = logic f)
    (hmode : alwaysResolves m = true) (i : Instr) (s : State) (h : i.mnemonic = m) :
    (∀ v, readOperand i.operand s = .ok v → AnswersWithZN i s { s with a := f s.a v } (f s.a v)) ∧
      (OperandFaults i s → TakesOutOfRange i s) := by
  obtain ⟨hread, hraise⟩ := withOperand_contract (k := fun s v => .next (setResult .a (f s.a v) s)) hm hmode i s h
  exact ⟨fun v hv => answersWithZN_of_setP (hread v hv), hraise⟩

theorem flagsKept_bitStatus (s : State) (m : Byte) :
    FlagsKept [.z, .n, .v] s (s.setP (bitStatus s.p s.a m)) := by
  intro f hf
  obtain ⟨hz, hn, hv⟩ : f ≠ .z ∧ f ≠ .n ∧ f ≠ .v := by simpa using hf
  simp [State.flag, getFlag_bitStatus, hz, hn, hv]

/-! ## The statements -/

/-- Settles O34, by the logic handler's contract for the three operators. -/
theorem andEorOraCombineIntoAccumulator : Obligations.AndEorOraCombineIntoAccumulator :=
  ⟨⟨hasEncodings_of_table rfl, logic_contract (f := fun a m => a &&& m) rfl rfl⟩,
    ⟨hasEncodings_of_table rfl, logic_contract (f := fun a m => a ^^^ m) rfl rfl⟩,
    hasEncodings_of_table rfl, logic_contract (f := fun a m => a ||| m) rfl rfl⟩

/-- Settles O35: where its operand can be read BIT writes P alone, and the bits of that status byte are
the spec's. -/
theorem bitTestsOperandBits : Obligations.BitTestsOperandBits := by
  refine ⟨hasEncodings_of_table rfl, fun i s h => ?_⟩
  obtain ⟨hread, hraise⟩ :=
    withOperand_contract (k := fun s m => .next (s.setP (bitStatus s.p s.a m))) rfl rfl i s h
  refine ⟨fun m hm => ⟨_, hread m hm, rfl, ?_, ?_, ?_, flagsKept_bitStatus s m⟩, hraise⟩ <;>
    simp [State.flag, getFlag_bitStatus]

end Sys2Proof.Machine
end

section
/-! SUPPORT. Add, subtract and compare (spec/45_arith_compare.md R190 to R194): what the sum writes, stated as
the spec's contract, what the compare handler answers, and the statements about ADC, SBC, CMP, CPX and CPY. -/

namespace Sys2Proof.Machine

/-! ## The sum into A -/

/-- The result as the spec writes it: the unbounded sum reduced mod 256 (R190). -/
theorem addResult_eq_mod (a m : Byte) (c : Bool) :
    addResult a m c = BitVec.ofNat 8 ((a.toNat + m.toNat + c.toNat) % 256) :=
  BitVec.eq_of_toNat_eq (Nat.mod_mod _ 256).symm

theorem flag_addTo (m : Byte) (s : State) (f : Flag) :
    (addTo m s).flag f =
      if f = .n then (addResult s.a m (s.flag .c)).getLsbD 7
      else if f = .z then addResult s.a m (s.flag .c) == 0
      else if f = .v then addOverflow s.a m (s.flag .c)
      else if f = .c then addCarry s.a m (s.flag .c)
      else s.flag f := getFlag_addStatus s.p s.a m f

/-- From `s` to `t` the byte `m` and Carry were added to A as the contract of ADC says (R190): `r` is the
result, `sum` the unbounded sum. SBC's `m` is its transformed operand (R191). -/
def AddsWithCarry (m : Byte) (s t : State) : Prop :=
  let sum : Nat := s.a.toNat + m.toNat + (s.flag .c).toNat
  let r : Byte := BitVec.ofNat 8 (sum % 256)
  t = { s with a := r, p := t.p } ∧ t.flag .c = decide (sum > 0xFF) ∧
    t.flag .v = ((m ^^^ r) &&& (r ^^^ s.a) &&& 0x80 != 0) ∧ ZNOf r t ∧ FlagsKept [.c, .v, .z, .n] s t

theorem addsWithCarry_addTo (m : Byte) (s : State) : AddsWithCarry m s (addTo m s) := by
  simp only [AddsWithCarry, ← addResult_eq_mod]
  refine ⟨rfl, ?carry, ?overflow, ⟨?zero, ?negative⟩, fun f hf => ?kept⟩
  case carry => exact flag_addTo m s .c
  case overflow => exact flag_addTo m s .v
  case zero => exact flag_addTo m s .z
  case negative => exact flag_addTo m s .n
  case kept =>
    obtain ⟨hc, hv, hz, hn⟩ : f ≠ .c ∧ f ≠ .v ∧ f ≠ .z ∧ f ≠ .n := by simpa using hf
    rw [flag_addTo, if_neg hn, if_neg hz, if_neg hv, if_neg hc]

/-- ADC and SBC as one: a mnemonic whose handler adds `f` of its operand to A. -/
theorem add_contract {m : Mnemonic} {f : Byte → Byte}
    (hm : handlerOf m = fun o s => withValue (readOperand o s) s fun v => .next (addTo (f v) s))
    (hmode : alwaysResolves m = true) (i : Instr) (s : State) (h : i.mnemonic = m) :
    (∀ v, readOperand i.operand s = .ok v → ∃ t, exec i s = .next t ∧ AddsWithCarry (f v) s t) ∧
      (OperandFaults i s → TakesOutOfRange i s) := by
  obtain ⟨hread, hraise⟩ := withOperand_contract (k := fun s v => .next (addTo (f v) s)) hm hmode i s h
  exact ⟨fun v hv => ⟨_, hread v hv, addsWithCarry_addTo (f v) s⟩, hraise⟩

/-! ## The comparison -/

/-- CMP, CPX and CPY as one: a mnemonic whose handler compares a register with its operand. -/
theorem compare_contract {m : Mnemonic} {r : Reg} (hm : handlerOf m = compare r)
    (hmode : alwaysResolves m = true) (i : Instr) (s : State) (h : i.mnemonic = m) :
    (∀ v, readOperand i.operand s = .ok v →
        ∃ t, exec i s = .next t ∧ t = { s with p := t.p } ∧
          t.flag .c = decide (v.toNat ≤ (s.reg r).toNat) ∧ ZNOf (s.reg r - v) t ∧ FlagsKept [.c, .z, .n] s t) ∧
      (OperandFaults i s → TakesOutOfRange i s) := by
  obtain ⟨hread, hraise⟩ :=
    withOperand_contract (k := fun s v => .next (s.setP (compareStatus s.p (s.reg r) v))) hm hmode i s h
  refine ⟨fun v hv => ⟨_, hread v hv, rfl, ?carry, ⟨?zero, ?negative⟩, fun f hf => ?kept⟩, hraise⟩
  case carry => exact getFlag_compareStatus s.p (s.reg r) v .c
  case zero => exact getFlag_compareStatus s.p (s.reg r) v .z
  case negative => exact getFlag_compareStatus s.p (s.reg r) v .n
  case kept =>
    obtain ⟨hc, hz, hn⟩ : f ≠ .c ∧ f ≠ .z ∧ f ≠ .n := by simpa using hf
    rw [State.flag_setP, getFlag_compareStatus, if_neg hn, if_neg hz, if_neg hc, State.flag]

/-! ## The statements -/

/-- Settles O36, by the sum's contract for the operand itself. -/
theorem adcAddsWithCarry : Obligations.AdcAddsWithCarry :=
  ⟨hasEncodings_of_table rfl, add_contract (f := fun m => m) rfl rfl⟩

/-- Settles O37, by the sum's contract for the transformed operand. -/
theorem sbcSubtractsWithCarry : Obligations.SbcSubtractsWithCarry :=
  ⟨hasEncodings_of_table rfl, add_contract (f := subOperand) rfl rfl⟩

/-- Settles O39, by the compare handler's contract for A, X and Y. -/
theorem comparesSetCarryZeroNegative : Obligations.ComparesSetCarryZeroNegative :=
  ⟨⟨hasEncodings_of_table rfl, compare_contract (r := .a) rfl rfl⟩,
    ⟨hasEncodings_of_table rfl, compare_contract (r := .x) rfl rfl⟩,
    hasEncodings_of_table rfl, compare_contract (r := .y) rfl rfl⟩

end Sys2Proof.Machine
end

section
/-! SUPPORT. Shifts and rotates (spec/46_shift_rotate.md R200 to R204): the flags of the status byte they
write, what each of the two kinds of form answers, and the statements about ASL, LSR, ROL and ROR. -/

namespace Sys2Proof.Machine

/-! ## The flags -/

/-- Z and N are of the result that rotates in the Carry of `s`, not the bit just shifted out. -/
theorem flags_of_shiftStatus {k : Shift} {s t : State} {v : Byte} (ht : t.p = shiftStatus k s.p v) :
    t.flag .c = shiftCarry k v ∧ ZNOf (shiftResult k v (s.flag .c)) t ∧ FlagsKept [.c, .z, .n] s t := by
  have hflag (f : Flag) := (congrArg (getFlag · f) ht).trans (getFlag_shiftStatus k s.p v f)
  refine ⟨hflag .c, ⟨hflag .z, hflag .n⟩, fun f hf => ?_⟩
  obtain ⟨hc, hz, hn⟩ : f ≠ .c ∧ f ≠ .z ∧ f ≠ .n := by simpa using hf
  exact (hflag f).trans (by rw [if_neg hn, if_neg hz, if_neg hc, State.flag])

/-! ## The two kinds of form -/

/-- The accumulator form of the four as one: it raises in no state. -/
theorem shiftAccumulator_contract {i : Instr} {k : Shift} {s : State} (h : exec i s = shiftAccumulator k s) :
    ∃ t, exec i s = .next t ∧ t = { s with a := shiftResult k s.a (s.flag .c), p := t.p } ∧
      t.flag .c = shiftCarry k s.a ∧ ZNOf (shiftResult k s.a (s.flag .c)) t ∧ FlagsKept [.c, .z, .n] s t :=
  ⟨_, h, rfl, flags_of_shiftStatus rfl⟩

theorem shift_of_ne_accumulator {o : Operand} (ho : o ≠ .accumulator) (k : Shift) (s : State) :
    shift k o s = shiftMemory k o s := by
  unfold shift
  split
  · exact absurd rfl ho
  · rfl

/-- The memory forms of the four as one, where the byte can be read, and where they raise. -/
theorem shiftMemory_contract {m : Mnemonic} {k : Shift} (hm : handlerOf m = shift k) (hshift : m.isShift = true)
    (i : Instr) (s : State) (h : i.mnemonic = m) (hform : i.form ≠ .accumulator) :
    (∀ ea v, resolve i.operand s = .ok ea → memRead s ea = .ok v →
        ∃ t, exec i s = .next t ∧ t = { s with mem := t.mem, p := t.p } ∧
          StoredOnly ea (shiftResult k v (s.flag .c)) s t ∧
          t.flag .c = shiftCarry k v ∧ ZNOf (shiftResult k v (s.flag .c)) t ∧ FlagsKept [.c, .z, .n] s t) ∧
      (OperandFaults i s → TakesOutOfRange i s) := by
  have hne : i.operand ≠ .accumulator := fun ho => hform (congrArg Operand.form ho)
  have hexec : exec i s = shiftMemory k i.operand s := by
    rw [exec_of_mnemonic h, hm, shift_of_ne_accumulator hne]
  constructor
  · intro ea v hres hread
    exact ⟨_, hexec.trans (modify_of_memRead hres hread _ _), rfl,
      storedOnly_of_mem (ne_top_of_memRead hread) rfl, flags_of_shiftStatus rfl⟩
  · intro hfaults
    obtain ⟨hmode, -⟩ := (shift_operand (h ▸ hshift)).resolve_left hne
    rcases modify_cases hmode _ _ s with hraise | ⟨ea, _, hea, hres, -⟩
    · exact hexec.trans hraise
    · exact absurd hfaults (not_operandFaults_of_resolve hres hea)

/-! ## The statements -/

/-- Settles O40, by the contracts of the two kinds of form for ASL. -/
theorem aslShiftsLeft : Obligations.AslShiftsLeft :=
  ⟨hasEncodings_of_table rfl, fun _ => shiftAccumulator_contract (k := .asl) rfl,
    shiftMemory_contract (k := .asl) rfl rfl⟩

/-- Settles O41, by the contracts of the two kinds of form for LSR. -/
theorem lsrShiftsRight : Obligations.LsrShiftsRight :=
  ⟨hasEncodings_of_table rfl, fun _ => shiftAccumulator_contract (k := .lsr) rfl,
    shiftMemory_contract (k := .lsr) rfl rfl⟩

/-- Settles O42: the Carry that ROL's contracts rotate in is the one before the instruction. -/
theorem rolRotatesLeftThroughCarry : Obligations.RolRotatesLeftThroughCarry :=
  ⟨hasEncodings_of_table rfl, fun _ => shiftAccumulator_contract (k := .rol) rfl,
    shiftMemory_contract (k := .rol) rfl rfl⟩

/-- Settles O43: the Carry that ROR's contracts rotate in is the one before the instruction. -/
theorem rorRotatesRightThroughCarry : Obligations.RorRotatesRightThroughCarry :=
  ⟨hasEncodings_of_table rfl, fun _ => shiftAccumulator_contract (k := .ror) rfl,
    shiftMemory_contract (k := .ror) rfl rfl⟩

end Sys2Proof.Machine
end

section
/-! SUPPORT. The stack (spec/47_stack.md R210 to R215): what a push stores and a pop reads, that a pop undoes
a push, the status byte's round trip, and the statement about PHP and PLP. -/

namespace Sys2Proof.Machine

/-! ## Pushes and pops -/

/-- Every stack address exists, so a push or a pop never raises. -/
theorem stackAddress_ne_top (s : State) : stackAddress s ≠ 0xFFFF#16 :=
  (present_iff _).1 (present_stackAddress s)

theorem storedOnly_push (v : Byte) (s : State) : StoredOnly (stackAddress s) v s (push v s) :=
  storedOnly_of_mem (stackAddress_ne_top s) (push_mem v s)

theorem memRead_stackAddress_popped (s : State) : memRead s (stackAddress (popped s)) = .ok (topByte s) :=
  memRead_of_ne (stackAddress_ne_top _)

/-- A pop gives S back its value before the push, for every S, 0x00 included (R216). -/
theorem popped_push_sp (v : Byte) (s : State) : (popped (push v s)).sp = s.sp :=
  BitVec.sub_add_cancel s.sp 1

theorem stackAddress_popped_push (v : Byte) (s : State) : stackAddress (popped (push v s)) = stackAddress s := by
  rw [stackAddress, popped_push_sp, stackAddress]

/-- A pop returns the byte of the push before it (R216). -/
@[simp] theorem topByte_push (v : Byte) (s : State) : topByte (push v s) = v := by
  rw [topByte, stackAddress_popped_push, push_mem, Memory.peek_poke_same]

/-! ## The status byte -/

/-- Pushed and pulled, P loses only what its bits 4 and 5 were: Break comes back 0 and Break2 comes back 1. -/
theorem getFlag_pulledStatus_pushedStatus (p : Byte) (f : Flag) :
    getFlag (pulledStatus (pushedStatus p)) f
      = if f = .b then false else if f = .b2 then true else getFlag p f := by
  rw [getFlag_pulledStatus, getFlag_pushedStatus]
  cases f <;> rfl

/-- The round trip keeps P just if P has the bits that it forces. -/
theorem pulledStatus_pushedStatus_eq_iff (s : State) : pulledStatus (pushedStatus s.p) = s.p ↔ StatusInv s := by
  constructor
  · intro h
    have hflag (f : Flag) := (congrArg (getFlag · f) h).symm.trans (getFlag_pulledStatus_pushedStatus s.p f)
    exact ⟨hflag .b, hflag .b2⟩
  · rintro ⟨hb, hb2⟩
    refine status_ext fun f => (getFlag_pulledStatus_pushedStatus s.p f).trans ?_
    split_ifs with h h'
    · rw [h]; exact hb.symm
    · rw [h']; exact hb2.symm
    · rfl

/-! ## The two handlers -/

theorem exec_php (s : State) : exec .php s = .next (push (pushedStatus s.p) s) := rfl

theorem exec_plp (s : State) : exec .plp s = .next ((popped s).setP (pulledStatus (topByte s))) := rfl

/-- PLP right after PHP writes to P what the round trip makes of it. -/
theorem exec_plp_after_php (s : State) : ∃ u, exec .plp (push (pushedStatus s.p) s) = .next u ∧
    u.p = pulledStatus (pushedStatus s.p) := by
  refine ⟨_, exec_plp _, ?_⟩
  rw [State.setP_p, topByte_push]

/-! ## The statement -/

/-- Settles O45: PLP after PHP pops the byte just pushed, so what it writes to P is the round trip's. -/
theorem phpAndPlpMoveStatus : Obligations.PhpAndPlpMoveStatus := by
  refine ⟨hasEncodings_of_table rfl, hasEncodings_of_table rfl, fun s => ⟨?php, ?plp⟩⟩
  case php =>
    obtain ⟨u, hplp, hp⟩ := exec_plp_after_php s
    refine ⟨_, exec_php s, rfl, storedOnly_push _ s, u, hplp, ?_⟩
    rw [hp, pulledStatus_pushedStatus_eq_iff]
  case plp => exact ⟨_, memRead_stackAddress_popped s, exec_plp s⟩

end Sys2Proof.Machine
end

section
/-! SUPPORT. The jumps (spec/48_control_flow.md R220, R221): where a two-byte operand can be read, the step of
a transfer to `pc1`, the pointer of JMP indirect, and the statements about the two rows. -/

namespace Sys2Proof.Machine

/-! ## Two operand bytes -/

/-- Of an instruction with two operand bytes one is missing just if `pc1` or `pc1 + 1` is 0xFFFF. -/
theorem operandByteMissing_iff_of_two_bytes {i : Instr} (h : i.operand.bytes.length = 2) (s : State) :
    OperandByteMissing i s ↔ s.pc = 0xFFFF#16 ∨ s.pc + 1#16 = 0xFFFF#16 := by
  constructor
  · rintro ⟨k, hk, htop⟩
    obtain rfl | rfl : k = 0 ∨ k = 1 := by omega
    · exact .inl (by simpa using htop)
    · exact .inr htop
  · rintro (htop | htop)
    · exact ⟨0, by omega, by simpa using htop⟩
    · exact ⟨1, by omega, htop⟩

theorem operandWord_of_missing {i : Instr} (hlen : i.operand.bytes.length = 2) {s : State}
    (h : OperandByteMissing i s) (w : Word) : operandWord w s = .error (.outOfRangeAddress 0xFFFF#16) := by
  rw [operandWord_eq, if_pos ((operandByteMissing_iff_of_two_bytes hlen s).1 h)]

theorem operandWord_of_present {i : Instr} (hlen : i.operand.bytes.length = 2) {s : State}
    (h : ¬ OperandByteMissing i s) (w : Word) : operandWord w s = .ok w := by
  rw [operandWord_eq, if_neg (mt (operandByteMissing_iff_of_two_bytes hlen s).2 h)]

/-! ## A transfer to `pc1` -/

/-- Where the bytes of an instruction lie at `pc`, its handler finds all its operand bytes. -/
theorem not_operandByteMissing_of_bytesAt {s : State} {i : Instr} (h : BytesAt s s.pc (encode i)) :
    ¬ OperandByteMissing i (s.setPc (s.pc + 1)) := by
  obtain ⟨-, hoperand⟩ := bytesAt_cons h
  rintro ⟨k, hk, htop⟩
  exact ne_top_of_memRead (hoperand k hk) htop

/-- A handler that only writes `pc1` to `pc` passes the value test of the generic advance, so the step goes
on to the next instruction (R135). -/
theorem step_of_transfer_to_pc1 {s : State} {i : Instr} (hrun : s.run = .running)
    (hbytes : BytesAt s s.pc (encode i)) (hdecode : decode (encode i) = .ok (i, []))
    (hexec : exec i (s.setPc (s.pc + 1)) = .next (s.setPc (s.pc + 1))) :
    step s = .next { s with pc := s.pc + BitVec.ofNat 16 (encode i).length } := by
  rw [step_of_fetch hrun (fetch_of_decode hbytes hdecode) hexec, State.setPc_pc,
    advanced_from_pc0 s.pc (by simp [encode]), if_pos ⟨hrun, rfl⟩]
  rfl

/-! ## JMP absolute -/

theorem exec_jmpAbs (w : Word) (s : State) :
    exec (.jmpAbs w) s = withValue (operandWord w s) s fun t => .next (s.setPc t) := rfl

theorem decode_encode_jmpAbs (w : Word) : decode (encode (.jmpAbs w)) = .ok (.jmpAbs w, []) :=
  congrArg (fun v => Except.ok (Instr.jmpAbs v, [])) (wordOf_highByte_lowByte w)

theorem exec_jmpAbs_of_present {s : State} {w : Word} (h : ¬ OperandByteMissing (.jmpAbs w) s) :
    exec (.jmpAbs w) s = .next (s.setPc w) := by
  rw [exec_jmpAbs, operandWord_of_present rfl h, withValue_ok]

theorem takesOutOfRange_jmpAbs {s : State} {w : Word} (h : OperandByteMissing (.jmpAbs w) s) :
    TakesOutOfRange (.jmpAbs w) s := by
  rw [TakesOutOfRange, exec_jmpAbs, operandWord_of_missing rfl h, withValue_error]
  rfl

/-! ## JMP indirect -/

theorem exec_jmpInd (p : Word) (s : State) :
    exec (.jmpInd p) s =
      withValue (operandWord p s) s fun p => withValue (jumpPointer p s) s fun t => .next (s.setPc t) := rfl

theorem decode_encode_jmpInd (p : Word) : decode (encode (.jmpInd p)) = .ok (.jmpInd p, []) :=
  congrArg (fun v => Except.ok (Instr.jmpInd v, [])) (wordOf_highByte_lowByte p)

/-- The pointer's word: its high byte is at the start of the page if the pointer is at the page's end. -/
theorem jumpPointer_of_memRead {s : State} {p : Word} {lo hi : Byte} (hlo : memRead s p = .ok lo)
    (hhi : memRead s (if lowByte p = 0xFF then p &&& 0xFF00 else p + 1) = .ok hi) :
    jumpPointer p s = .ok (wordOf hi lo) := by
  unfold jumpPointer
  split_ifs at hhi ⊢
  · simp only [hlo, hhi]
  · exact memRead16_of_memRead hlo hhi

/-- At 0xFFFF the low byte's read raises. -/
theorem jumpPointer_top (s : State) : jumpPointer 0xFFFF#16 s = .error (.outOfRangeAddress 0xFFFF#16) := rfl

/-- At 0xFFFE, which is not at its page's end, the high byte's read raises. -/
theorem jumpPointer_nearTop (s : State) : jumpPointer 0xFFFE#16 s = .error (.outOfRangeAddress 0xFFFF#16) := rfl

theorem exec_jmpInd_of_pointer {s : State} {p t : Word} (h : ¬ OperandByteMissing (.jmpInd p) s)
    (hpointer : jumpPointer p s = .ok t) : exec (.jmpInd p) s = .next (s.setPc t) := by
  rw [exec_jmpInd, operandWord_of_present rfl h, withValue_ok, hpointer, withValue_ok]

/-- JMP indirect raises where an operand byte is missing and, those being there, where its pointer raises. -/
theorem takesOutOfRange_jmpInd {s : State} {p : Word}
    (h : OperandByteMissing (.jmpInd p) s ∨ jumpPointer p s = .error (.outOfRangeAddress 0xFFFF#16)) :
    TakesOutOfRange (.jmpInd p) s := by
  rw [TakesOutOfRange, exec_jmpInd]
  by_cases hmissing : OperandByteMissing (.jmpInd p) s
  · rw [operandWord_of_missing rfl hmissing, withValue_error]
    rfl
  · rw [operandWord_of_present rfl hmissing, withValue_ok, h.resolve_left hmissing, withValue_error]
    rfl

/-! ## The statements -/

theorem jmp_hasEncodings : HasEncodings .jmp [(0x4C, .absoluteJump), (0x6C, .indirectJump)] :=
  hasEncodings_of_table rfl

/-- Settles O46: the handler needs its operand bytes alone, and a jump to `pc1` passes the generic
advance's value test. -/
theorem jmpAbsoluteJumps : Obligations.JmpAbsoluteJumps := by
  refine ⟨jmp_hasEncodings, fun s w => ⟨exec_jmpAbs_of_present, takesOutOfRange_jmpAbs, ?missing⟩,
    fun s hrun hbytes => ?step⟩
  case missing =>
    rw [operandByteMissing_iff_of_two_bytes rfl,
      show s.pc + 1#16 = 0xFFFF#16 ↔ s.pc = 0xFFFE#16 by bv_omega]
  case step =>
    exact step_of_transfer_to_pc1 (i := .jmpAbs (s.pc + 1)) hrun hbytes (decode_encode_jmpAbs _)
      (exec_jmpAbs_of_present (not_operandByteMissing_of_bytesAt hbytes))

/-- Settles O47: the handler takes the pointer's word, and raises for the two pointers that have none; a
jump to `pc1` passes the generic advance's value test. -/
theorem jmpIndirectWrapsInPage : Obligations.JmpIndirectWrapsInPage := by
  refine ⟨jmp_hasEncodings, fun s p => ⟨fun lo hi hpresent hlo hhi => ?jumps, ?raises⟩,
    fun s p hrun hbytes hlo hhi => ?step⟩
  case jumps => exact exec_jmpInd_of_pointer hpresent (jumpPointer_of_memRead hlo hhi)
  case raises =>
    rintro (hmissing | rfl | rfl)
    · exact takesOutOfRange_jmpInd (.inl hmissing)
    · exact takesOutOfRange_jmpInd (.inr (jumpPointer_top s))
    · exact takesOutOfRange_jmpInd (.inr (jumpPointer_nearTop s))
  case step =>
    have hpointer : jumpPointer p (s.setPc (s.pc + 1)) = .ok (s.pc + 1) :=
      (jumpPointer_of_memRead hlo hhi).trans (congrArg Except.ok (wordOf_highByte_lowByte _))
    exact step_of_transfer_to_pc1 (i := .jmpInd p) hrun hbytes (decode_encode_jmpInd p)
      (exec_jmpInd_of_pointer (not_operandByteMissing_of_bytesAt hbytes) hpointer)

end Sys2Proof.Machine
end

section
/-! SUPPORT. The flag instructions and NOP (spec/49_flags_nop.md R250 to R257): what a write of one flag
keeps, and the statement about the eight mnemonics. -/

namespace Sys2Proof.Machine

/-! ## A write of one flag -/

/-- A handler that writes one flag gives it the value and keeps the other flags and the other fields. -/
theorem writeFlag_contract {i : Instr} {f : Flag} {b : Bool} {s : State} (h : exec i s = writeFlag f b s) :
    ∃ t, exec i s = .next t ∧ t = { s with p := t.p } ∧ t.flag f = b ∧ FlagsKept [f] s t := by
  refine ⟨s.setP (setFlag s.p f b), h, rfl, getFlag_setFlag_same s.p f b, fun g hg => ?_⟩
  exact getFlag_setFlag_ne s.p b (List.ne_of_not_mem_cons hg)

/-! ## The statement -/

/-- Settles O52: each of the seven handlers is a write of its flag, and NOP's answers its own state. -/
theorem flagInstructionsWriteOneFlag : Obligations.FlagInstructionsWriteOneFlag := by
  refine ⟨hasEncodings_of_table rfl, hasEncodings_of_table rfl, hasEncodings_of_table rfl,
    hasEncodings_of_table rfl, hasEncodings_of_table rfl, hasEncodings_of_table rfl,
    hasEncodings_of_table rfl, hasEncodings_of_table rfl, fun s => ⟨rfl, fun e he => writeFlag_contract ?_⟩⟩
  fin_cases he <;> rfl

end Sys2Proof.Machine
end

section
/-! SUPPORT. The fatal conditions (spec/60_exceptions.md R270, R271): what a step does whose fetch raised,
what a Faulted machine does, and the statement about the opcode bytes with no row. -/

namespace Sys2Proof.Machine

/-! ## A fetch that raises -/

/-- The lookup decides alone: whatever follows an opcode byte with no row, the fetch raises at it. -/
theorem fetch_of_no_row {s : State} {op : Byte} (hread : memRead s s.pc = .ok op) (hrow : opRow? op = none) :
    fetch s = .raised (raise (.unrecognizedOpcode op) (s.setPc (s.pc + 1))) := by
  simp only [fetch, hread, hrow]

/-- A step whose fetch raised ends there: no handler runs and there is no generic advance. -/
theorem step_of_fetch_raised {s t : State} (hrun : s.run = .running) (hfetch : fetch s = .raised t) :
    step s = .next t := by
  simp only [step, hrun, hfetch]

/-- The trace tap comes after the lookup (R131 step 4), so a fetch that raised keeps it silent. -/
theorem traceEvent_of_fetch_raised {s t : State} (hfetch : fetch s = .raised t) : traceEvent s = none := by
  unfold traceEvent
  cases s.run with
  | running => simp only [hfetch]
  | halted => rfl
  | faulted c => rfl

/-! ## A Faulted machine -/

theorem step_of_faulted {s : State} {c : FatalCondition} (hrun : s.run = .faulted c) :
    step s = .fault (.faulted c) := by
  simp only [step, hrun]

/-! ## The statement -/

/-- Settles O7: the fetch raises at the lookup, so the step ends in the raised state with the tap silent,
and that state is Faulted. -/
theorem illegalOpcodeBytesFault : Obligations.IllegalOpcodeBytesFault := by
  intro s op hrun hread hrow
  have hfetch := fetch_of_no_row hread hrow
  exact ⟨step_of_fetch_raised hrun hfetch, traceEvent_of_fetch_raised hfetch, step_of_faulted rfl⟩

end Sys2Proof.Machine
end

section
/-! SUPPORT. The encoder and the decoder (spec/30_encoding.md R80 to R90): that decoding undoes encoding,
and the five statements about encodings. -/

namespace Sys2Proof

/-! ## Decoding an encoding, by its length -/

/-- The bytes after an opcode whose row builds from a word. -/
theorem decode_of_wordRow {op : Byte} {f : Word → Instr} (h : (opRow? op).map OpRow.build = some (.word f))
    (w : Word) (rest : List Byte) : decode (op :: lowByte w :: highByte w :: rest) = .ok (f w, rest) := by
  obtain ⟨row, hrow, hbuild⟩ := Option.map_eq_some_iff.1 h
  simp only [decode, hrow, hbuild, Build.take, wordOf_highByte_lowByte]

theorem decode_encode_of_one_byte {i : Instr} (h : i.length = 1) (rest : List Byte) :
    decode (encode i ++ rest) = .ok (i, rest) := by
  cases i with
  | aslAcc | brk | clc | cld | cli | clv | dex | dey | inx | iny | lsrAcc | nop | pha | php | pla | plp
  | rolAcc | rorAcc | rti | rts | sec | sed | sei | tax | tay | tsx | txa | txs | tya => rfl
  | _ => cases h

theorem decode_encode_of_two_bytes {i : Instr} (h : i.length = 2) (rest : List Byte) :
    decode (encode i ++ rest) = .ok (i, rest) := by
  cases i with
  | adcImm | adcZp | adcZpX | adcIndX | adcIndY | andImm | andZp | andZpX | andIndX | andIndY | aslZp | aslZpX
  | bcc | bcs | beq | bitZp | bmi | bne | bpl | bvc | bvs | cmpImm | cmpZp | cmpZpX | cmpIndX | cmpIndY
  | cpxImm | cpxZp | cpyImm | cpyZp | decZp | decZpX | eorImm | eorZp | eorZpX | eorIndX | eorIndY
  | incZp | incZpX | ldaImm | ldaZp | ldaZpX | ldaIndX | ldaIndY | ldxImm | ldxZp | ldxZpY | ldyImm | ldyZp
  | ldyZpX | lsrZp | lsrZpX | oraImm | oraZp | oraZpX | oraIndX | oraIndY | rolZp | rolZpX | rorZp | rorZpX
  | sbcImm | sbcZp | sbcZpX | sbcIndX | sbcIndY | staZp | staZpX | staIndX | staIndY | stxZp | stxZpY
  | styZp | styZpX => rfl
  | _ => cases h

theorem decode_encode_of_three_bytes {i : Instr} (h : i.length = 3) (rest : List Byte) :
    decode (encode i ++ rest) = .ok (i, rest) := by
  cases i with
  | adcAbs | adcAbsX | adcAbsY | andAbs | andAbsX | andAbsY | aslAbs | aslAbsX | bitAbs | cmpAbs | cmpAbsX
  | cmpAbsY | cpxAbs | cpyAbs | decAbs | decAbsX | eorAbs | eorAbsX | eorAbsY | incAbs | incAbsX | jmpAbs
  | jmpInd | jsr | ldaAbs | ldaAbsX | ldaAbsY | ldxAbs | ldxAbsY | ldyAbs | ldyAbsX | lsrAbs | lsrAbsX
  | oraAbs | oraAbsX | oraAbsY | rolAbs | rolAbsX | rorAbs | rorAbsX | sbcAbs | sbcAbsX | sbcAbsY | staAbs
  | staAbsX | staAbsY | stxAbs | styAbs => exact decode_of_wordRow (by rfl) _ rest
  | _ => cases h

theorem Instr.length_cases (i : Instr) : i.length = 1 ∨ i.length = 2 ∨ i.length = 3 := by
  rw [Instr.length]
  cases i.form <;> decide

/-! ## The statements -/

/-- Settles O2, by the number of bytes of the encoding. -/
theorem decodeOfEncodeIsIdentity : Obligations.DecodeOfEncodeIsIdentity := by
  intro i rest
  rcases i.length_cases with h | h | h
  · exact decode_encode_of_one_byte h rest
  · exact decode_encode_of_two_bytes h rest
  · exact decode_encode_of_three_bytes h rest

/-- Settles O3: the row that decode found describes what it built. -/
theorem encodeOfDecodeIsIdentity : Obligations.EncodeOfDecodeIsIdentity := by
  intro bs i rest h
  obtain ⟨row, hmem, b1, b2, -, rfl, rfl⟩ := decode_cases h
  obtain ⟨hopcode, -, -, -, -, hbytes⟩ := opTable_describes hmem b1 b2
  rw [encode, hopcode, hbytes, List.cons_append]

/-- Settles O1: each accepted word is an encoding with the bytes after it, and each rejected one stops at the
lookup or at its missing operand. -/
theorem sampleWordsDecode : Obligations.SampleWordsDecode :=
  have decodes := decodeOfEncodeIsIdentity
  ⟨decodes (.ldaImm 0x05) [0x00], decodes .brk [], decodes .tax [], decodes .inx [],
    decodes (.ldaAbsX 0x1234) [], decodes (.stxZpY 0xF0) [], decodes (.staIndY 0x40) [],
    decodes (.jmpInd 0x30FF) [], decodes (.jsr 0x8010) [], decodes (.bne 0xFB) [], decodes (.rolAbsX 0x0300) [],
    decodes (.adcImm 0x01) [], decodes (.bitAbs 0x0300) [], decodes .php [], decodes .sed [], rfl, rfl, rfl⟩

/-- The number of each row's opcode. -/
def opcodeNumbers : List Nat := opTable.map fun row => row.opcode.toNat

theorem opRow?_eq_none_iff (op : Byte) : opRow? op = none ↔ op.toNat ∉ opcodeNumbers := by
  simp [opRow?, opcodeNumbers, BitVec.toNat_inj]

/-- The bytes without a row are those of a list if their numbers are. -/
theorem opRow?_eq_none_iff_mem {l : List Byte} (h : ∀ n < 256, n ∉ opcodeNumbers ↔ n ∈ l.map BitVec.toNat)
    (op : Byte) : opRow? op = none ↔ op ∈ l := by
  rw [opRow?_eq_none_iff, h _ op.isLt, List.mem_map_of_injective fun _ _ => BitVec.eq_of_toNat_eq]

theorem nodup_opcodes : (opTable.map OpRow.opcode).Nodup := by
  have hnumbers : opcodeNumbers.Nodup := by decide +kernel
  rw [opcodeNumbers, ← Function.comp_def BitVec.toNat, ← List.map_map] at hnumbers
  exact hnumbers.of_map

/-- A row's descriptor is well formed because the instructions it builds are: the cycle count plays no part. -/
theorem desc_wf_of_mem {row : OpRow} (h : row ∈ opTable) : row.desc.wf = true := by
  obtain ⟨-, hmnemonic, hform, hlength, hwf, -⟩ := opTable_describes h 0 0
  rwa [Instr.wf, hmnemonic, hform, hlength] at hwf

/-- Settles O4: the numbers of the 151 opcodes and of the 105 other bytes are compared one by one. -/
theorem opcodeTableIsWellFormed : Obligations.OpcodeTableIsWellFormed :=
  ⟨rfl, nodup_opcodes, fun _ => desc_wf_of_mem, rfl, opRow?_eq_none_iff_mem (by decide +kernel)⟩

/-- Settles O5: the row's length is the encoding's, and an encoding is as long as its form says. -/
theorem lengthIsToldFromTheOpcode : Obligations.LengthIsToldFromTheOpcode := by
  intro i
  have hrow : ∀ j : Instr, (opRow? j.opcode).map (fun row => row.desc.length) = some (encode j).length := by
    intro j
    obtain ⟨row, hrow, -, -, -, hlength, -⟩ := Laws.encodesARow j
    rw [hrow, Option.map_some, hlength]
  have hform : (encode i).length = i.form.length := Machine.encode_length i
  refine ⟨hrow i, fun h => ?one, fun h => ?two, fun h => ?three, fun j hj => ?same⟩
  case one | two | three =>
    rw [hform]
    generalize i.form = form at h
    fin_cases h <;> rfl
  case same =>
    have hrowj := hrow j
    rw [hj, hrow i] at hrowj
    exact (Option.some.inj hrowj).symm

end Sys2Proof
end

section
/-! SUPPORT. What a handler can do besides giving its instruction a meaning: it writes no register, no flag,
no memory and no `pc` but those the spec lists for it (spec/10_state.md R21 to R37, spec/20_memory.md R59), keeps
the canonical form of memory, and comes to no run state but those of spec/60_exceptions.md R270. One case
analysis over the instructions says so; the statements about all of them are read off it. -/

namespace Sys2Proof.Machine

/-! ## The writers -/

/-- Whether an instruction is listed as a writer of a flag. -/
def writesFlag (i : Instr) (f : Flag) : Bool := (flagWriters f).contains i.mnemonic

/-- What the handler of `i`, entered in `s`, may have made of it in `t`. -/
structure WritesOnlyListed (i : Instr) (s t : State) : Prop where
  reg : ∀ r, writesReg i r = false → t.reg r = s.reg r
  flag : ∀ f, writesFlag i f = false → t.flag f = s.flag f
  pc : writesPc i = false → t.pc = s.pc
  mem : writesMemory i = false → t.mem = s.mem
  wf : s.mem.wf = true → t.mem.wf = true
  run : t.run = s.run ∨ (i = .brk ∧ t.run = .halted) ∨ t.run = .faulted (.outOfRangeAddress 0xFFFF#16)

namespace WritesOnlyListed

variable {i : Instr} {s t : State}

theorem refl (i : Instr) (s : State) : WritesOnlyListed i s s where
  reg _ _ := rfl
  flag _ _ := rfl
  pc _ := rfl
  mem _ := rfl
  wf h := h
  run := .inl rfl

theorem setReg {r : Reg} (hr : writesReg i r = true) (h : WritesOnlyListed i s t) (v : Byte) :
    WritesOnlyListed i s (t.setReg r v) where
  reg q hq := by
    have hne : q ≠ r := fun e => by rw [e, hr] at hq; cases hq
    rw [State.reg_setReg, if_neg hne, h.reg q hq]
  flag f hf := (State.flag_setReg t r v f).trans (h.flag f hf)
  pc hpc := (State.setReg_pc t r v).trans (h.pc hpc)
  mem hm := (State.setReg_mem t r v).trans (h.mem hm)
  wf hs := by rw [State.setReg_mem]; exact h.wf hs
  run := by rw [State.setReg_run]; exact h.run

theorem setPc (hpc : writesPc i = true) (h : WritesOnlyListed i s t) (w : Word) :
    WritesOnlyListed i s (t.setPc w) where
  reg r hr := (State.reg_setPc t w r).trans (h.reg r hr)
  flag := h.flag
  pc hpc' := by rw [hpc] at hpc'; cases hpc'
  mem := h.mem
  wf := h.wf
  run := h.run

/-- A status byte may take P's place if the flags that it changes are listed. -/
theorem setP {l : List Flag} {p : Byte} (hl : l.all (writesFlag i) = true) (hp : FlagsKept l s (s.setP p))
    (h : WritesOnlyListed i s t) : WritesOnlyListed i s (t.setP p) where
  reg r hr := (State.reg_setP t p r).trans (h.reg r hr)
  flag f hf := hp f fun hmem => by rw [List.all_eq_true.1 hl f hmem] at hf; cases hf
  pc := h.pc
  mem := h.mem
  wf := h.wf
  run := h.run

theorem poke {ea : Word} (hm : writesMemory i = true) (hea : ea ≠ 0xFFFF#16) (h : WritesOnlyListed i s t) (v : Byte) :
    WritesOnlyListed i s (t.setMem (t.mem.poke ea.toNat v)) where
  reg r hr := (State.reg_setMem t _ r).trans (h.reg r hr)
  flag := h.flag
  pc := h.pc
  mem hm' := by rw [hm] at hm'; cases hm'
  wf hs := Memory.wf_poke _ _ _ (by simpa [present] using (present_iff ea).2 hea) (h.wf hs)
  run := h.run

theorem raise (h : WritesOnlyListed i s t) : WritesOnlyListed i s (raise (.outOfRangeAddress 0xFFFF#16) t) where
  reg r hr := (State.reg_setRun t _ r).trans (h.reg r hr)
  flag := h.flag
  pc := h.pc
  mem := h.mem
  wf := h.wf
  run := .inr (.inr rfl)

theorem push (hm : writesMemory i = true) (hr : writesReg i .s = true) (h : WritesOnlyListed i s t) (v : Byte) :
    WritesOnlyListed i s (push v t) := (h.poke hm (stackAddress_ne_top t) v).setReg hr _

theorem popped (hr : writesReg i .s = true) (h : WritesOnlyListed i s t) : WritesOnlyListed i s (popped t) :=
  h.setReg hr _

theorem pullPc (hr : writesReg i .s = true) (hpc : writesPc i = true) (h : WritesOnlyListed i s t) (plus : Word) :
    WritesOnlyListed i s (pullPc plus t) := ((h.popped hr).popped hr).setPc hpc _

end WritesOnlyListed

/-! ## The flags that a status byte changes -/

theorem flagsKept_setZN (s : State) (v : Byte) : FlagsKept [.z, .n] s (s.setP (setZN s.p v)) := by
  intro f hf
  obtain ⟨hz, hn⟩ : f ≠ .z ∧ f ≠ .n := by simpa using hf
  rw [State.flag_setP, getFlag_setZN, if_neg hn, if_neg hz, State.flag]

theorem flagsKept_compareStatus (s : State) (r m : Byte) :
    FlagsKept [.c, .z, .n] s (s.setP (compareStatus s.p r m)) := by
  intro f hf
  obtain ⟨hc, hz, hn⟩ : f ≠ .c ∧ f ≠ .z ∧ f ≠ .n := by simpa using hf
  rw [State.flag_setP, getFlag_compareStatus, if_neg hn, if_neg hz, if_neg hc, State.flag]

theorem flagsKept_addStatus (s : State) (m : Byte) :
    FlagsKept [.c, .v, .z, .n] s (s.setP (addStatus s.p s.a m)) := by
  obtain ⟨-, -, -, -, hkept⟩ := addsWithCarry_addTo m s
  exact hkept

theorem flagsKept_shiftStatus (s : State) (k : Shift) (v : Byte) :
    FlagsKept [.c, .z, .n] s (s.setP (shiftStatus k s.p v)) := by
  obtain ⟨-, -, hkept⟩ := flags_of_shiftStatus (s := s) (t := s.setP (shiftStatus k s.p v)) rfl
  exact hkept

theorem flagsKept_setFlag (s : State) (f : Flag) (b : Bool) : FlagsKept [f] s (s.setP (setFlag s.p f b)) :=
  fun _ hg => getFlag_setFlag_ne s.p b (List.ne_of_not_mem_cons hg)

theorem flagsKept_all (s t : State) : FlagsKept [.c, .z, .i, .d, .b, .b2, .v, .n] s t := by
  intro f hf
  cases f <;> exact absurd (by decide) hf

/-! ## The shared handlers -/

section

variable {i : Instr} {o : Operand} {s t : State}

theorem setResult_writes {r : Reg} (hr : writesReg i r = true) (hf : [.z, .n].all (writesFlag i) = true) (v : Byte) :
    WritesOnlyListed i s (setResult r v s) := ((WritesOnlyListed.refl i s).setReg hr v).setP hf (flagsKept_setZN s v)

theorem addTo_writes (hr : writesReg i .a = true) (hf : [.c, .v, .z, .n].all (writesFlag i) = true) (m : Byte) :
    WritesOnlyListed i s (addTo m s) := ((WritesOnlyListed.refl i s).setReg hr _).setP hf (flagsKept_addStatus s m)

/-- A handler that reads its operand first raises there, or writes what it makes of the value. -/
theorem withOperand_writes {k : Byte → State} (ho : resolvable o = true) (hk : ∀ m, WritesOnlyListed i s (k m))
    (h : withValue (readOperand o s) s (fun m => .next (k m)) = .next t) : WritesOnlyListed i s t := by
  rcases withOperand_cases ho s (fun m => .next (k m)) with h' | ⟨m, -, h'⟩ <;> cases h.symm.trans h'
  · exact (WritesOnlyListed.refl i s).raise
  · exact hk m

theorem store_writes {r : Reg} (ho : resolvable o = true) (hm : writesMemory i = true)
    (h : store r o s = .next t) : WritesOnlyListed i s t := by
  rcases store_cases ho r s with h' | ⟨ea, hea, -, h'⟩ <;> cases h.symm.trans h'
  · exact (WritesOnlyListed.refl i s).raise
  · exact (WritesOnlyListed.refl i s).poke hm hea _

theorem modify_writes {l : List Flag} {value status : Byte → Byte} (ho : resolvable o = true)
    (hm : writesMemory i = true) (hl : l.all (writesFlag i) = true) (hp : ∀ v, FlagsKept l s (s.setP (status v)))
    (h : modify o value status s = .next t) : WritesOnlyListed i s t := by
  rcases modify_cases ho value status s with h' | ⟨ea, v, hea, -, -, h'⟩ <;> cases h.symm.trans h'
  · exact (WritesOnlyListed.refl i s).raise
  · exact ((WritesOnlyListed.refl i s).poke hm hea _).setP hl (hp v)

theorem shiftMemory_writes {k : Shift} (ho : resolvable o = true) (hm : writesMemory i = true)
    (hf : [.c, .z, .n].all (writesFlag i) = true) (h : shiftMemory k o s = .next t) : WritesOnlyListed i s t :=
  modify_writes ho hm hf (flagsKept_shiftStatus s k) h

theorem shiftAccumulator_writes {k : Shift} (hr : writesReg i .a = true)
    (hf : [.c, .z, .n].all (writesFlag i) = true) (h : shiftAccumulator k s = .next t) : WritesOnlyListed i s t := by
  cases h
  exact ((WritesOnlyListed.refl i s).setReg hr _).setP hf (flagsKept_shiftStatus s k s.a)

theorem writeFlag_writes {f : Flag} {b : Bool} (hf : [f].all (writesFlag i) = true)
    (h : writeFlag f b s = .next t) : WritesOnlyListed i s t := by
  cases h
  exact (WritesOnlyListed.refl i s).setP hf (flagsKept_setFlag s f b)

theorem branch_writes {cond : Bool} {off : Byte} (hpc : writesPc i = true) (h : branch cond off s = .next t) :
    WritesOnlyListed i s t := by
  rw [branch_eq] at h
  split_ifs at h <;> cases h
  · exact (WritesOnlyListed.refl i s).raise
  · exact (WritesOnlyListed.refl i s).setPc hpc _
  · exact WritesOnlyListed.refl i s

theorem jump_writes (ho : (∃ w, o = .absoluteJump w) ∨ ∃ w, o = .indirectJump w) (hpc : writesPc i = true)
    (h : jump o s = .next t) : WritesOnlyListed i s t := by
  rcases jump_cases ho s with h' | ⟨w, h'⟩ <;> cases h.symm.trans h'
  · exact (WritesOnlyListed.refl i s).raise
  · exact (WritesOnlyListed.refl i s).setPc hpc w

theorem jsr_writes {w : Word} (h : execJsr w s = .next t) : WritesOnlyListed (.jsr w) s t := by
  have hpushes : WritesOnlyListed (.jsr w) s (pushReturn s) :=
    ((WritesOnlyListed.refl _ s).push rfl rfl _).push rfl rfl _
  rcases jsr_cases w s with h' | ⟨target, -, h'⟩ <;> cases h.symm.trans h'
  · exact hpushes.raise
  · exact hpushes.setPc rfl target

end

/-- Every handler writes what is listed for its instruction and nothing else. -/
theorem exec_writesOnlyListed {i : Instr} {s t : State} (h : exec i s = .next t) : WritesOnlyListed i s t := by
  cases i with
  | ldaImm | ldaZp | ldaZpX | ldaAbs | ldaAbsX | ldaAbsY | ldaIndX | ldaIndY | ldxImm | ldxZp | ldxZpY | ldxAbs
  | ldxAbsY | ldyImm | ldyZp | ldyZpX | ldyAbs | ldyAbsX
  | andImm | andZp | andZpX | andAbs | andAbsX | andAbsY | andIndX | andIndY | eorImm | eorZp | eorZpX | eorAbs
  | eorAbsX | eorAbsY | eorIndX | eorIndY | oraImm | oraZp | oraZpX | oraAbs | oraAbsX | oraAbsY | oraIndX
  | oraIndY => exact withOperand_writes rfl (fun _ => setResult_writes rfl rfl _) h
  | adcImm | adcZp | adcZpX | adcAbs | adcAbsX | adcAbsY | adcIndX | adcIndY
  | sbcImm | sbcZp | sbcZpX | sbcAbs | sbcAbsX | sbcAbsY | sbcIndX | sbcIndY =>
    exact withOperand_writes rfl (fun _ => addTo_writes rfl rfl _) h
  | cmpImm | cmpZp | cmpZpX | cmpAbs | cmpAbsX | cmpAbsY | cmpIndX | cmpIndY | cpxImm | cpxZp | cpxAbs | cpyImm
  | cpyZp | cpyAbs =>
    exact withOperand_writes rfl (fun m => (WritesOnlyListed.refl _ s).setP rfl (flagsKept_compareStatus s _ m)) h
  | bitZp | bitAbs =>
    exact withOperand_writes rfl (fun m => (WritesOnlyListed.refl _ s).setP rfl (flagsKept_bitStatus s m)) h
  | staZp | staZpX | staAbs | staAbsX | staAbsY | staIndX | staIndY | stxZp | stxZpY | stxAbs | styZp | styZpX
  | styAbs => exact store_writes rfl rfl h
  | incZp | incZpX | incAbs | incAbsX | decZp | decZpX | decAbs | decAbsX =>
    exact modify_writes (l := [.z, .n]) rfl rfl rfl (fun _ => flagsKept_setZN s _) h
  | aslZp | aslZpX | aslAbs | aslAbsX | lsrZp | lsrZpX | lsrAbs | lsrAbsX | rolZp | rolZpX | rolAbs | rolAbsX
  | rorZp | rorZpX | rorAbs | rorAbsX => exact shiftMemory_writes rfl rfl rfl h
  | aslAcc | lsrAcc | rolAcc | rorAcc => exact shiftAccumulator_writes rfl rfl h
  | inx | iny | dex | dey | tax | tay | tsx | txa | tya => cases h; exact setResult_writes rfl rfl _
  | txs => cases h; exact (WritesOnlyListed.refl _ s).setReg rfl _
  | clc | cld | cli | clv | sec | sed | sei => exact writeFlag_writes rfl h
  | bcc | bcs | beq | bmi | bne | bpl | bvc | bvs => exact branch_writes rfl h
  | jmpAbs w => exact jump_writes (.inl ⟨w, rfl⟩) rfl h
  | jmpInd w => exact jump_writes (.inr ⟨w, rfl⟩) rfl h
  | jsr w => exact jsr_writes h
  | rts => cases h; exact (WritesOnlyListed.refl _ s).pullPc rfl rfl 1
  | rti => cases h; exact (((WritesOnlyListed.refl _ s).popped rfl).setP rfl (flagsKept_all s _)).pullPc rfl rfl 0
  | pha => cases h; exact (WritesOnlyListed.refl _ s).push rfl rfl _
  | php => cases h; exact (WritesOnlyListed.refl _ s).push rfl rfl _
  | pla =>
    cases h
    exact (((WritesOnlyListed.refl _ s).popped rfl).setReg rfl _).setP rfl (flagsKept_setZN s _)
  | plp => cases h; exact ((WritesOnlyListed.refl _ s).popped rfl).setP rfl (flagsKept_all s _)
  | nop => cases h; exact WritesOnlyListed.refl _ s
  | brk =>
    cases h
    exact { WritesOnlyListed.refl .brk s with
      reg := fun r _ => State.reg_setRun s _ r
      run := .inr (.inl ⟨rfl, rfl⟩) }

/-! ## The statements -/

/-- Break and Break2 are listed for PLP and RTI alone. -/
theorem writesFlag_break_iff (i : Instr) :
    (writesFlag i .b = true ↔ i.mnemonic = .plp ∨ i.mnemonic = .rti) ∧ writesFlag i .b2 = writesFlag i .b := by
  simp [writesFlag, flagWriters]

theorem statusInv_pulled (v : Byte) : getFlag (pulledStatus v) .b = false ∧ getFlag (pulledStatus v) .b2 = true :=
  ⟨getFlag_pulledStatus v .b, getFlag_pulledStatus v .b2⟩

/-- PLP and RTI force Break and Break2, whatever byte they pop. -/
theorem statusInv_of_pull {i : Instr} {s t : State} (hi : i.mnemonic = .plp ∨ i.mnemonic = .rti)
    (h : exec i s = .next t) : StatusInv t := by
  rw [exec_eq_handlerOf] at h
  rcases hi with hi | hi <;> rw [hi] at h <;> cases h <;> exact statusInv_pulled _

theorem exec_keeps_statusInv {i : Instr} {s t : State} (hs : StatusInv s) (h : exec i s = .next t) : StatusInv t := by
  obtain ⟨hb, hb2⟩ := hs
  obtain ⟨hlisted, hsame⟩ := writesFlag_break_iff i
  cases hw : writesFlag i .b with
  | true => exact statusInv_of_pull (hlisted.1 hw) h
  | false =>
    have hflag := (exec_writesOnlyListed h).flag
    exact ⟨(hflag .b hw).trans hb, (hflag .b2 (hsame.trans hw)).trans hb2⟩

/-- Settles O15: a step that reaches no handler leaves P alone, the generic advance too, and a handler that
is listed for Break or Break2 forces both. -/
theorem stepKeepsStatusInvariant : Obligations.StepKeepsStatusInvariant := by
  intro s u hs h
  obtain ⟨-, rfl | ⟨op, -, rfl⟩ | ⟨i, t, hexec, rfl⟩⟩ := step_cases h
  · exact hs
  · exact hs
  · have ht : StatusInv t := exec_keeps_statusInv (s := s.setPc (s.pc + 1)) hs hexec
    rcases advanced_cases (s.pc + 1) i.length t with hu | ⟨w, hu⟩ <;> rw [hu] <;> exact ht

/-- Settles O16: only a handler writes memory, and every write goes to an address that exists. -/
theorem stepKeepsMemoryForm : Obligations.StepKeepsMemoryForm := by
  intro s u hs h
  obtain ⟨-, rfl | ⟨op, -, rfl⟩ | ⟨i, t, hexec, rfl⟩⟩ := step_cases h
  · exact hs
  · exact hs
  · have ht : t.wf = true := (exec_writesOnlyListed hexec).wf hs
    rcases advanced_cases (s.pc + 1) i.length t with hu | ⟨w, hu⟩ <;> rw [hu] <;> exact ht

/-- Settles O10: the run states that the case analysis over the handlers leaves. -/
theorem everyHandlerAnswersANextState : Obligations.EveryHandlerAnswersANextState := by
  intro i s
  obtain ⟨t, h⟩ := exec_answers i s
  exact ⟨t, h, (exec_writesOnlyListed h).run⟩

/-- Settles O53, by the case analysis over the handlers. -/
theorem onlyListedInstructionsWriteMemory : Obligations.OnlyListedInstructionsWriteMemory :=
  fun _ _ _ hlisted h => (exec_writesOnlyListed h).mem hlisted

/-- Settles O54, by the case analysis over the handlers. -/
theorem onlyListedInstructionsWriteRegisters : Obligations.OnlyListedInstructionsWriteRegisters :=
  fun _ _ _ h => ⟨(exec_writesOnlyListed h).reg, (exec_writesOnlyListed h).pc⟩

/-- Settles O55: the flags by the case analysis over the handlers, Break and Break2 by what a pull forces. -/
theorem onlyListedInstructionsWriteFlags : Obligations.OnlyListedInstructionsWriteFlags :=
  fun _ _ _ h => ⟨fun f hf => (exec_writesOnlyListed h).flag f (by simpa [writesFlag] using hf),
    fun hi => statusInv_of_pull hi h⟩

/-- The advance writes `pc` alone. -/
theorem advanced_run (pc1 : Word) (n : Nat) (t : State) : (advanced pc1 n t).run = t.run := by
  rcases advanced_cases pc1 n t with h | ⟨w, h⟩ <;> rw [h]
  rfl

/-- Settles O11: a Running step ends at the opcode fetch, at the lookup, or with what a handler answered. -/
theorem runningStepOutcomes : Obligations.RunningStepOutcomes := by
  intro s hrun
  rcases fetch_cases s with ⟨-, hfetch⟩ | ⟨op, -, -, hnone, hfetch⟩ | ⟨row, -, -, -, -, hfetch⟩
  · exact ⟨_, step_of_fetch_raised hrun hfetch, .inr (.inr (.inr rfl))⟩
  · exact ⟨_, step_of_fetch_raised hrun hfetch, .inr (.inr (.inl ⟨op, hnone, rfl⟩))⟩
  · obtain ⟨t, hexec⟩ := exec_answers (row.build.apply _ _) (s.setPc (s.pc + 1))
    refine ⟨_, step_of_fetch hrun hfetch hexec, ?_⟩
    rw [RunInv, advanced_run]
    rcases (exec_writesOnlyListed hexec).run with h | ⟨-, h⟩ | h
    · exact .inl (h.trans hrun)
    · exact .inr (.inl h)
    · exact .inr (.inr (.inr h))

end Sys2Proof.Machine
end

section
/-! SUPPORT. InterruptDisable and DecimalMode have no function (spec/10_state.md R31, R32, R281; decisions D8
and D14): every handler but PHP's answers alike from two states that differ in one of them alone. -/

namespace Sys2Proof.Machine

/-! ## Status bytes that agree but for one flag -/

/-- The two status bytes have the same flags but for `f`. -/
def AgreeBut (f : Flag) (p q : Byte) : Prop := ∀ g, g ≠ f → getFlag q g = getFlag p g

theorem agreeBut_setFlag_left (f : Flag) (p : Byte) (b : Bool) : AgreeBut f p (setFlag p f b) :=
  fun _ hg => getFlag_setFlag_ne p b hg

section

variable {f : Flag} {p q : Byte}

/-- The two bytes are the same once `f` is cleared in both. -/
theorem AgreeBut.clear (h : AgreeBut f p q) : setFlag q f false = setFlag p f false := by
  refine status_ext fun g => ?_
  rw [getFlag_setFlag, getFlag_setFlag]
  split_ifs with hg
  · rfl
  · exact h g hg

theorem AgreeBut.setFlag (h : AgreeBut f p q) (g : Flag) (b : Bool) :
    AgreeBut f (setFlag p g b) (setFlag q g b) := by
  intro g' hg'
  rw [getFlag_setFlag, getFlag_setFlag, h g' hg']

theorem AgreeBut.setZN (h : AgreeBut f p q) (v : Byte) : AgreeBut f (setZN p v) (setZN q v) :=
  (h.setFlag .z _).setFlag .n _

theorem AgreeBut.bitStatus (h : AgreeBut f p q) (a m : Byte) : AgreeBut f (bitStatus p a m) (bitStatus q a m) :=
  ((h.setFlag .z _).setFlag .n _).setFlag .v _

theorem AgreeBut.compareStatus (h : AgreeBut f p q) (r m : Byte) :
    AgreeBut f (compareStatus p r m) (compareStatus q r m) := (h.setFlag .c _).setZN _

theorem AgreeBut.addStatus (h : AgreeBut f p q) (hc : getFlag q .c = getFlag p .c) (a m : Byte) :
    AgreeBut f (addStatus p a m) (addStatus q a m) := by
  simp only [Machine.addStatus, hc]
  exact ((h.setFlag .c _).setFlag .v _).setZN _

theorem AgreeBut.shiftStatus (h : AgreeBut f p q) (hc : getFlag q .c = getFlag p .c) (k : Shift) (v : Byte) :
    AgreeBut f (shiftStatus k p v) (shiftStatus k q v) := by
  simp only [Machine.shiftStatus, hc]
  exact (h.setFlag .c _).setZN _

end

/-! ## Answers that agree but for one flag -/

/-- Where the first answers a next state, the second answers the same state but for `f`. -/
def AnswersAlike (f : Flag) (r r' : Result) : Prop :=
  ∀ t, r = .next t → ∃ q, r' = .next (t.setP q) ∧ AgreeBut f t.p q

section

variable {f : Flag} {s : State} {q : Byte}

theorem answersAlike_next {t : State} (h : AgreeBut f t.p q) : AnswersAlike f (.next t) (.next (t.setP q)) := by
  intro u hu
  cases hu
  exact ⟨q, rfl, h⟩

/-- Two handlers that go on with the same value, or raise, answer alike if they do so with every value. -/
theorem answersAlike_withValue {α : Type} {k k' : α → Result} (h : AgreeBut f s.p q)
    (hk : ∀ v, AnswersAlike f (k v) (k' v)) (r : Except FatalCondition α) :
    AnswersAlike f (withValue r s k) (withValue r (s.setP q) k') := by
  cases r with
  | ok v => exact hk v
  | error c => exact answersAlike_next (t := raise c s) h

/-! ## The operands do not look at P -/

theorem resolve_setP (o : Operand) (s : State) (q : Byte) : resolve o (s.setP q) = resolve o s := by
  cases o <;> rfl

theorem readOperand_setP (o : Operand) (s : State) (q : Byte) : readOperand o (s.setP q) = readOperand o s := by
  cases o <;> rfl

/-! ## The shared handlers -/

theorem withOperand_alike {k k' : Byte → Result} (h : AgreeBut f s.p q) (hk : ∀ m, AnswersAlike f (k m) (k' m))
    (o : Operand) :
    AnswersAlike f (withValue (readOperand o s) s k) (withValue (readOperand o (s.setP q)) (s.setP q) k') := by
  rw [readOperand_setP]
  exact answersAlike_withValue h hk _

theorem setResult_alike (h : AgreeBut f s.p q) (r : Reg) (v : Byte) :
    AnswersAlike f (.next (setResult r v s)) (.next (setResult r v (s.setP q))) := by
  have heq : setResult r v (s.setP q) = (setResult r v s).setP (setZN q v) := by cases r <;> rfl
  rw [heq]
  exact answersAlike_next (h.setZN v)

theorem addTo_alike (h : AgreeBut f s.p q) (hc : getFlag q .c = getFlag s.p .c) (m : Byte) :
    AnswersAlike f (.next (addTo m s)) (.next (addTo m (s.setP q))) := by
  have heq : addTo m (s.setP q) = (addTo m s).setP (addStatus q s.a m) := by
    simp only [addTo, State.flag_setP, State.setP_a, hc]
    rfl
  rw [heq]
  exact answersAlike_next (h.addStatus hc s.a m)

theorem load_alike (h : AgreeBut f s.p q) (r : Reg) (o : Operand) :
    AnswersAlike f (load r o s) (load r o (s.setP q)) := withOperand_alike h (setResult_alike h r) o

theorem logic_alike (h : AgreeBut f s.p q) (g : Byte → Byte → Byte) (o : Operand) :
    AnswersAlike f (logic g o s) (logic g o (s.setP q)) :=
  withOperand_alike h (fun m => setResult_alike h .a (g s.a m)) o

theorem compare_alike (h : AgreeBut f s.p q) (r : Reg) (o : Operand) :
    AnswersAlike f (compare r o s) (compare r o (s.setP q)) := by
  refine withOperand_alike h (fun m => ?_) o
  rw [State.reg_setP]
  exact answersAlike_next (t := s.setP _) (h.compareStatus _ m)

theorem bitTest_alike (h : AgreeBut f s.p q) (o : Operand) : AnswersAlike f (bitTest o s) (bitTest o (s.setP q)) :=
  withOperand_alike h (fun m => answersAlike_next (t := s.setP _) (h.bitStatus s.a m)) o

theorem writeTo_alike (h : AgreeBut f s.p q) (a : Word) (v : Byte) :
    AnswersAlike f (writeTo a v s) (writeTo a v (s.setP q)) := by
  rw [writeTo_eq, writeTo_eq]
  split
  · exact answersAlike_next (t := raise _ s) h
  · exact answersAlike_next (t := s.setMem _) h

theorem store_alike (h : AgreeBut f s.p q) (r : Reg) (o : Operand) :
    AnswersAlike f (store r o s) (store r o (s.setP q)) := by
  unfold store
  rw [resolve_setP, State.reg_setP]
  exact answersAlike_withValue h (fun ea => writeTo_alike h ea _) _

theorem modify_alike {status status' : Byte → Byte} (h : AgreeBut f s.p q)
    (hp : ∀ v, AgreeBut f (status v) (status' v)) (o : Operand) (value : Byte → Byte) :
    AnswersAlike f (modify o value status s) (modify o value status' (s.setP q)) := by
  unfold modify
  rw [resolve_setP]
  refine answersAlike_withValue h (fun ea => ?_) _
  rw [memRead_congr (s := s) rfl]
  refine answersAlike_withValue h (fun v => ?_) _
  rw [memWrite_eq, memWrite_eq]
  split
  · exact answersAlike_next (t := raise _ s) h
  · exact answersAlike_next (t := (s.setMem _).setP _) (hp v)

theorem shift_alike (h : AgreeBut f s.p q) (hc : getFlag q .c = getFlag s.p .c) (k : Shift) (o : Operand) :
    AnswersAlike f (shift k o s) (shift k o (s.setP q)) := by
  unfold shift
  split
  · rw [shiftAccumulator, shiftAccumulator, State.flag_setP, hc]
    exact answersAlike_next (t := (s.setReg .a _).setP _) (h.shiftStatus hc k s.a)
  · rw [shiftMemory, shiftMemory, State.flag_setP, hc]
    exact modify_alike h (h.shiftStatus hc k) _ _

theorem writeFlag_alike (h : AgreeBut f s.p q) (g : Flag) (b : Bool) :
    AnswersAlike f (writeFlag g b s) (writeFlag g b (s.setP q)) := answersAlike_next (t := s.setP _) (h.setFlag g b)

/-- A branch whose condition tests the same flag value. -/
theorem branch_alike {cond cond' : Bool} (h : AgreeBut f s.p q) (hcond : cond' = cond) (off : Byte) :
    AnswersAlike f (branch cond off s) (branch cond' off (s.setP q)) := by
  rw [branch_eq, branch_eq, hcond, State.setP_pc]
  split_ifs
  · exact answersAlike_next (t := raise _ s) h
  · exact answersAlike_next (t := s.setPc _) h
  · exact answersAlike_next h

theorem jump_alike (h : AgreeBut f s.p q) (o : Operand) : AnswersAlike f (jump o s) (jump o (s.setP q)) := by
  unfold jump
  split
  · exact answersAlike_withValue h (fun w => answersAlike_next (t := s.setPc w) h) _
  · exact answersAlike_withValue h
      (fun p => answersAlike_withValue h (fun w => answersAlike_next (t := s.setPc w) h) (jumpPointer p s)) _
  · exact answersAlike_next (t := raise _ s) h

theorem jsr_alike (h : AgreeBut f s.p q) (w : Word) : AnswersAlike f (execJsr w s) (execJsr w (s.setP q)) :=
  answersAlike_withValue (s := pushReturn s) h (fun _ => answersAlike_next (t := (pushReturn s).setPc _) h) _

/-- Every handler but PHP's tests C, Z, V or N alone and copies the other flags. -/
theorem handlerOf_alike {m : Mnemonic} (h : AgreeBut f s.p q) (hf : f = .i ∨ f = .d) (hm : m ≠ .php) (o : Operand) :
    AnswersAlike f (handlerOf m o s) (handlerOf m o (s.setP q)) := by
  have hc : getFlag q .c = getFlag s.p .c := h .c (by rcases hf with rfl | rfl <;> decide)
  have hz : getFlag q .z = getFlag s.p .z := h .z (by rcases hf with rfl | rfl <;> decide)
  have hv : getFlag q .v = getFlag s.p .v := h .v (by rcases hf with rfl | rfl <;> decide)
  have hn : getFlag q .n = getFlag s.p .n := h .n (by rcases hf with rfl | rfl <;> decide)
  cases m with
  | lda | ldx | ldy => exact load_alike h _ o
  | and | eor | ora => exact logic_alike h _ o
  | adc => exact withOperand_alike h (addTo_alike h hc) o
  | sbc => exact withOperand_alike h (fun m => addTo_alike h hc (subOperand m)) o
  | cmp | cpx | cpy => exact compare_alike h _ o
  | bit => exact bitTest_alike h o
  | sta | stx | sty => exact store_alike h _ o
  | inc | dec => exact modify_alike h (fun _ => h.setZN _) o _
  | asl | lsr | rol | ror => exact shift_alike h hc _ o
  | inx | iny | dex | dey | tax | tay | tsx | txa | tya => exact setResult_alike h _ _
  | txs => exact answersAlike_next (t := s.setReg .s _) h
  | clc | cld | cli | clv | sec | sed | sei => exact writeFlag_alike h _ _
  | bcc => exact branch_alike h (congrArg (! ·) hc) _
  | bcs => exact branch_alike h hc _
  | beq => exact branch_alike h hz _
  | bne => exact branch_alike h (congrArg (! ·) hz) _
  | bpl => exact branch_alike h (congrArg (! ·) hn) _
  | bmi => exact branch_alike h hn _
  | bvc => exact branch_alike h (congrArg (! ·) hv) _
  | bvs => exact branch_alike h hv _
  | jmp => exact jump_alike h o
  | jsr => exact jsr_alike h 0
  | rts => exact answersAlike_next (t := pullPc 1 s) h
  | rti => exact answersAlike_next (t := pullPc 0 ((popped s).setP _)) (fun _ _ => rfl)
  | pha => exact answersAlike_next (t := push s.a s) h
  | php => exact absurd rfl hm
  | pla => exact setResult_alike (s := popped s) h .a _
  | plp => exact answersAlike_next (t := (popped s).setP _) (fun _ _ => rfl)
  | nop => exact answersAlike_next h
  | brk => exact answersAlike_next (t := s.setRun .halted) h

end

/-! ## The statement -/

/-- Settles O56: the handlers answer alike, and what they answer is the same with the flag cleared. -/
theorem interruptDisableAndDecimalHaveNoFunction : Obligations.InterruptDisableAndDecimalHaveNoFunction := by
  intro i s t f b hf hm h
  have halike := handlerOf_alike (agreeBut_setFlag_left f s.p b) hf hm i.operand
  rw [← exec_eq_handlerOf, ← exec_eq_handlerOf] at halike
  obtain ⟨q, hu, hq⟩ := halike t h
  exact ⟨t.setP q, hu, congrArg t.setP hq.clear⟩

end Sys2Proof.Machine
end

section
/-! SUPPORT. Where a step stops (spec/41_execution_cycle.md R130, R137; spec/60_exceptions.md R276, R277), what
the trace tap sees (R136), and the statements about them and about BRK. -/

namespace Sys2Proof.Machine

/-! ## Steps that stop -/

/-- At the one address with no byte the opcode fetch raises (R51, R276). -/
theorem fetch_of_top {s : State} (hpc : s.pc = 0xFFFF#16) :
    fetch s = .raised (raise (.outOfRangeAddress 0xFFFF#16) s) := by
  simp only [fetch, hpc, memRead_eq, if_pos]

theorem step_of_halted {s : State} (hrun : s.run = .halted) : step s = .fault .halted := by
  simp only [step, hrun]

/-- A handler that halts is followed by no advance (R137). -/
theorem advanced_of_halted {t : State} (hrun : t.run = .halted) (pc1 : Word) (n : Nat) : advanced pc1 n t = t := by
  simp [advanced, hrun]

theorem bytesAt_singleton {s : State} {a : Word} {b : Byte} (h : memRead s a = .ok b) : BytesAt s a [b] := by
  intro k hk
  obtain rfl : k = 0 := by simpa using hk
  rwa [BitVec.add_zero]

/-- The fetch gives the instruction whose bytes lie at `pc`. -/
theorem fetch_of_encode {s : State} {i : Instr} (hbytes : BytesAt s s.pc (encode i)) :
    fetch s = .decoded i (encode i).length (s.setPc (s.pc + 1)) :=
  fetch_of_decode hbytes (by simpa using decodeOfEncodeIsIdentity i [])

/-! ## The trace tap -/

theorem traceEvent_of_stopped {s : State} (hrun : s.run ≠ .running) : traceEvent s = none := by
  unfold traceEvent
  cases h : s.run with
  | running => exact absurd h hrun
  | halted => rfl
  | faulted c => rfl

/-- After the lookup the tap sees the opcode, `pc1` and the registers that the handler is entered with. -/
theorem traceEvent_of_fetch {s t : State} {i : Instr} {n : Nat} (hrun : s.run = .running)
    (hfetch : fetch s = .decoded i n t) :
    traceEvent s = some ⟨s.pc + 1, i.opcode, s.a, s.x, s.y, s.sp, s.p⟩ := by
  obtain ⟨-, -, -, -, rfl⟩ := fetch_decoded hfetch
  simp only [traceEvent, hrun, hfetch]
  rfl

/-! ## The statements -/

/-- Settles O8: the fetch raises, so the step ends in the raised state with the tap silent. -/
theorem opcodeFetchAtMissingByteFaults : Obligations.OpcodeFetchAtMissingByteFaults :=
  fun _ hrun hpc => ⟨step_of_fetch_raised hrun (fetch_of_top hpc), traceEvent_of_fetch_raised (fetch_of_top hpc)⟩

/-- Settles O9: a step looks at the run state first, and reset at memory alone. -/
theorem haltedAndFaultedMachinesTakeNoStep : Obligations.HaltedAndFaultedMachinesTakeNoStep :=
  fun _ => ⟨fun hrun => ⟨step_of_halted hrun, rfl, rfl⟩, fun _ hrun => ⟨step_of_faulted hrun, rfl, rfl⟩⟩

/-- Settles O12: the byte 0x00 decodes to BRK, whose handler halts before the advance. -/
theorem brkHalts : Obligations.BrkHalts := by
  refine ⟨hasEncodings_of_table rfl, fun s => ⟨rfl, fun hrun hread => ?_⟩⟩
  have hfetch := fetch_of_encode (i := .brk) (bytesAt_singleton hread)
  rw [step_of_fetch hrun hfetch rfl, advanced_of_halted rfl]
  rfl

/-- Settles O14, by what the fetch makes of the opcode byte. -/
theorem traceTapFiresOnceAfterLookup : Obligations.TraceTapFiresOnceAfterLookup := by
  intro s
  refine ⟨fun op hrun hread hrow => ?fires, traceEvent_of_stopped,
    fun hpc => traceEvent_of_fetch_raised (fetch_of_top hpc),
    fun op hread hrow => traceEvent_of_fetch_raised (fetch_of_no_row hread hrow)⟩
  case fires =>
    rcases fetch_cases s with ⟨hpc, -⟩ | ⟨op', -, hread', hnone, -⟩ | ⟨row, -, -, -, -, hfetch⟩
    · exact absurd hpc (ne_top_of_memRead hread)
    · cases hread.symm.trans hread'
      exact absurd hnone hrow
    · obtain ⟨-, hopcode, -⟩ := fetch_decoded hfetch
      cases hread.symm.trans hopcode
      exact traceEvent_of_fetch hrun hfetch

end Sys2Proof.Machine
end

section
/-! SUPPORT. Reset, load and launch (spec/70_reset_and_hazards.md R300 to R309) and SetZN (spec/10_state.md
R28, R33): the statements about them. -/

namespace Sys2Proof.Machine

/-- Settles O17: nothing is loaded in the reset state, so its vector reads 0x0000, which is its `pc`. -/
theorem resetStateMeetsInvariants : Obligations.ResetStateMeetsInvariants :=
  ⟨⟨rfl, rfl⟩, rfl, .inl rfl, rfl⟩

/-- Settles O57: both bytes of the vector exist, and reset overwrites every field but memory. -/
theorem resetLoadsVectorAndDefaults : Obligations.ResetLoadsVectorAndDefaults :=
  fun _ => ⟨_, _, memRead_of_ne (by decide), memRead_of_ne (by decide), rfl⟩

theorem getLsbD_seven (b : Byte) : b.getLsbD 7 = decide (128 ≤ b.toNat) :=
  (BitVec.msb_eq_getLsbD_last b).symm.trans (BitVec.msb_eq_decide b)

/-- Settles O20: each bit is a flag of P, and the two that SetZN writes are read as numbers. -/
theorem setZNWritesZeroAndNegativeAlone : Obligations.SetZNWritesZeroAndNegativeAlone := by
  refine ⟨fun p v k hk => ?_, fun p => rfl⟩
  have hzero : (v == 0) = decide (v.toNat = 0) := by
    rw [Bool.eq_iff_iff, beq_iff_eq, decide_eq_true_eq, ← BitVec.toNat_inj]
    rfl
  rw [← hzero, ← getLsbD_seven]
  match k, hk with
  | 0, _ => exact getFlag_setZN p v .c
  | 1, _ => exact getFlag_setZN p v .z
  | 2, _ => exact getFlag_setZN p v .i
  | 3, _ => exact getFlag_setZN p v .d
  | 4, _ => exact getFlag_setZN p v .b
  | 5, _ => exact getFlag_setZN p v .b2
  | 6, _ => exact getFlag_setZN p v .v
  | 7, _ => exact getFlag_setZN p v .n

/-- The memory that `load` gives for a program it accepts. -/
def loadedMemory (prog : List Byte) (m : Memory) : Memory :=
  ((copyBytes prog 0x8000 m).poke 0xFFFC 0x00).poke 0xFFFD 0x80

theorem hostLoad_eq (prog : List Byte) (m : Memory) :
    hostLoad prog m = if prog.length ≤ 0x7FFF then some (loadedMemory prog m) else none := rfl

/-- The vector wins over the program, and the program over what memory held before. -/
theorem peek_loadedMemory (prog : List Byte) (m : Memory) (a : Nat) :
    (loadedMemory prog m).peek a = if a = 0xFFFD then 0x80 else if a = 0xFFFC then 0x00
      else Memory.peek (copyBytes prog 0x8000 m) a := by
  rw [loadedMemory, Memory.peek_poke, Memory.peek_poke]

/-- Settles O58: what `load` leaves in memory is read off in the order of its writes, the last first. -/
theorem launchInstallsProgram : Obligations.LaunchInstallsProgram := by
  intro m prog
  refine ⟨fun hlen => ?loaded, fun hlen => ?refused⟩
  case refused =>
    have hload : hostLoad prog m = none := by rw [hostLoad_eq, if_neg (by omega)]
    exact ⟨hload, by rw [launch, hload]; rfl⟩
  case loaded =>
    have hload : hostLoad prog m = some (loadedMemory prog m) := by rw [hostLoad_eq, if_pos hlen]
    have hlo : (loadedMemory prog m).peek 0xFFFC = 0x00 := by rw [peek_loadedMemory]; rfl
    have hhi : (loadedMemory prog m).peek 0xFFFD = 0x80 := by rw [peek_loadedMemory]; rfl
    refine ⟨_, _, hload, by rw [launch, hload]; rfl, ?state, ?lo, ?hi, fun k hk hne hne' => ?program,
      fun a hne hne' hout => ?kept⟩
    case state =>
      have hpc : wordOf ((loadedMemory prog m).peek 0xFFFD) ((loadedMemory prog m).peek 0xFFFC) = 0x8000 := by
        rw [hlo, hhi]; rfl
      rw [← hpc]
      rfl
    case lo => exact (memRead_of_ne (by decide)).trans (congrArg Except.ok hlo)
    case hi => exact (memRead_of_ne (by decide)).trans (congrArg Except.ok hhi)
    case program =>
      have ha : (BitVec.ofNat 16 (0x8000 + k)).toNat = 0x8000 + k := by
        rw [BitVec.toNat_ofNat]; omega
      rw [memRead_of_ne (by bv_omega), ha]
      refine congrArg Except.ok ?_
      refine (peek_loadedMemory prog m _).trans ?_
      rw [if_neg (by omega), if_neg (by omega), peek_copyBytes, dif_pos (by omega)]
      simp only [Nat.add_sub_cancel_left]
    case kept =>
      rw [peek_loadedMemory, if_neg hne', if_neg hne, peek_copyBytes, dif_neg (by omega)]

end Sys2Proof.Machine
end

section
/-! SUPPORT. The addressing resolver (spec/40_addressing.md R110 to R124): when it gives an address, the nine
effective addresses in integer arithmetic, and that the carried operand is the one memory holds at `pc1`. -/

namespace Sys2Proof.Machine

/-! ## When an operand is there -/

theorem operandByte_of_ne {s : State} (h : s.pc ≠ 0xFFFF#16) (b : Byte) : operandByte b s = .ok b := by
  rw [operandByte_eq, if_neg h]

theorem operandWord_of_ne {s : State} (h : s.pc ≠ 0xFFFF#16) (h' : s.pc + 1#16 ≠ 0xFFFF#16) (w : Word) :
    operandWord w s = .ok w := by
  rw [operandWord_eq, if_neg (not_or.2 ⟨h, h'⟩)]

/-- With its operand bytes there, an operand with a mode has an effective address. -/
theorem resolve_of_present {o : Operand} {s : State} (ho : resolvable o = true)
    (h : ∀ k < o.bytes.length, s.pc + BitVec.ofNat 16 k ≠ 0xFFFF#16) : ∃ ea, resolve o s = .ok ea := by
  cases o with
  | immediate b => exact ⟨s.pc, rfl⟩
  | zeroPage z | zeroPageX z | zeroPageY z | indirectX z | indirectY z =>
    have hpc : s.pc ≠ 0xFFFF#16 := by simpa using h 0 Nat.zero_lt_one
    simp [resolve, operandByte_of_ne hpc, Except.map]
  | absolute w | absoluteX w | absoluteY w =>
    have hpc : s.pc ≠ 0xFFFF#16 := by simpa using h 0 Nat.zero_lt_two
    simp [resolve, operandWord_of_ne hpc (h 1 Nat.one_lt_two), Except.map]
  | implied | accumulator | relative | absoluteJump | indirectJump => cases ho

/-- Without one of them the resolver raises, but for an Immediate, whose address it does not need to read. -/
theorem resolve_of_missing {i : Instr} {s : State} (ho : resolvable i.operand = true) (hi : i.form ≠ .immediate)
    (h : OperandByteMissing i s) : resolve i.operand s = .error (.outOfRangeAddress 0xFFFF#16) := by
  obtain ⟨k, hk, htop⟩ := h
  change i.operand.form ≠ .immediate at hi
  generalize i.operand = o at ho hi hk
  cases o with
  | immediate b => exact absurd rfl hi
  | zeroPage z | zeroPageX z | zeroPageY z | indirectX z | indirectY z =>
    obtain rfl : k = 0 := Nat.lt_one_iff.1 hk
    rw [resolve, operandByte_eq, if_pos (by simpa using htop)]
    rfl
  | absolute w | absoluteX w | absoluteY w =>
    have hmissing : s.pc = 0xFFFF#16 ∨ s.pc + 1#16 = 0xFFFF#16 := by
      match k, hk with
      | 0, _ => exact .inl (by simpa using htop)
      | 1, _ => exact .inr htop
    simp [resolve, operandWord_eq, hmissing, Except.map]
  | implied | accumulator | relative | absoluteJump | indirectJump => cases ho

/-- But for an Immediate, reading an operand is reading its effective address. -/
theorem readOperand_eq_bind {o : Operand} (ho : o.form ≠ .immediate) (s : State) :
    readOperand o s = (resolve o s).bind (memRead s) := by
  cases o with
  | immediate b => exact absurd rfl ho
  | _ => simp only [readOperand]; cases resolve _ s <;> rfl

theorem readOperand_of_resolve {o : Operand} {s : State} {ea : Word} (ho : o.form ≠ .immediate)
    (h : resolve o s = .ok ea) : readOperand o s = memRead s ea := by
  rw [readOperand_eq_bind ho, h]
  rfl

/-- An operand with a mode is read wherever it does not fault. -/
theorem readOperand_of_not_operandFaults {i : Instr} {s : State} (ho : resolvable i.operand = true)
    (h : ¬ OperandFaults i s) : ∃ m, readOperand i.operand s = .ok m := by
  obtain ⟨hpresent, htop⟩ := not_or.1 h
  obtain ⟨ea, hea⟩ := resolve_of_present ho fun k hk htop => hpresent ⟨k, hk, htop⟩
  have hne : ea ≠ 0xFFFF#16 := fun e => htop (e ▸ hea)
  by_cases hi : i.operand.form = .immediate
  · generalize i.operand = o at hea hi
    cases o with
    | immediate b =>
      cases hea
      exact ⟨b, operandByte_of_ne hne b⟩
    | _ => cases hi
  · exact ⟨_, (readOperand_of_resolve hi hea).trans (memRead_of_ne hne)⟩

theorem readOperand_of_operandFaults {i : Instr} {s : State} (ho : resolvable i.operand = true)
    (h : OperandFaults i s) : readOperand i.operand s = .error (.outOfRangeAddress 0xFFFF#16) := by
  cases hread : readOperand i.operand s with
  | ok m => exact absurd h (not_operandFaults_of_readOperand hread)
  | error c => rw [readOperand_error ho hread]

theorem resolve_of_noMode {o : Operand} (ho : o.form.mode = .noneAddressing) (s : State) :
    resolve o s = .error .unsupportedAddressingMode := by
  cases o <;> first | rfl | cases ho

/-! ## Addresses as numbers -/

theorem zext16_eq (b : Byte) : zext16 b = BitVec.ofNat 16 b.toNat :=
  BitVec.eq_of_toNat_eq (by rw [zext16_toNat, BitVec.toNat_ofNat]; omega)

/-- Indexing in page zero wraps mod 256. -/
theorem zext16_add (z x : Byte) : zext16 (z + x) = BitVec.ofNat 16 ((z.toNat + x.toNat) % 256) := by
  rw [zext16_eq, BitVec.toNat_add]

/-- Indexing a word wraps mod 65536. -/
theorem add_zext16 (w : Word) (x : Byte) : w + zext16 x = BitVec.ofNat 16 ((w.toNat + x.toNat) % 65536) :=
  BitVec.eq_of_toNat_eq (by rw [BitVec.toNat_add, zext16_toNat, BitVec.toNat_ofNat, Nat.mod_mod])

/-- A pointer in page zero is made of the bytes at its slot and at the next one mod 256. -/
theorem zpRead16_of_memRead {s : State} {z lo hi : Byte} (hlo : memRead s (zext16 z) = .ok lo)
    (hhi : memRead s (zext16 (z + 1)) = .ok hi) : zpRead16 z s = wordOf hi lo := by
  rw [zpRead16, peek_of_memRead hlo, peek_of_memRead hhi]

/-! ## The operand at `pc1` -/

/-- The operand's bytes are those that memory holds from `pc` on. -/
def CarriesBytesAtPc (o : Operand) (s : State) : Prop :=
  o.bytes <+: [s.mem.peek s.pc.toNat, s.mem.peek (s.pc + 1#16).toNat]

theorem operandByte_eq_memRead {s : State} {b : Byte} (h : b = s.mem.peek s.pc.toNat) :
    operandByte b s = memRead s s.pc := by
  rw [operandByte_eq, memRead_eq, h]

theorem operandWord_eq_memRead16 {s : State} {w : Word} (hlo : lowByte w = s.mem.peek s.pc.toNat)
    (hhi : highByte w = s.mem.peek (s.pc + 1#16).toNat) : operandWord w s = memRead16 s s.pc := by
  rw [operandWord_eq]
  split_ifs with h
  · rcases h with h | h
    · rw [h]; rfl
    · rw [show s.pc = 0xFFFE#16 by bv_omega]; rfl
  · obtain ⟨hpc, hpc'⟩ := not_or.1 h
    rw [memRead16_eq hpc hpc', ← hlo, ← hhi, wordOf_highByte_lowByte]

/-- Carried or read from memory, the operand has one effective address. -/
theorem resolve_eq_resolveAt {o : Operand} {s : State} (h : CarriesBytesAtPc o s) :
    resolve o s = resolveAt o.form.mode s := by
  cases o with
  | immediate b => rfl
  | zeroPage z | zeroPageX z | zeroPageY z | indirectX z | indirectY z =>
    obtain ⟨hz, -⟩ := List.cons_prefix_cons.1 h
    rw [resolve, operandByte_eq_memRead hz]
    rfl
  | absolute w | absoluteX w | absoluteY w =>
    obtain ⟨hlo, hrest⟩ := List.cons_prefix_cons.1 h
    obtain ⟨hhi, -⟩ := List.cons_prefix_cons.1 hrest
    rw [resolve, operandWord_eq_memRead16 hlo hhi]
    rfl
  | implied | accumulator | relative | absoluteJump | indirectJump => rfl

/-- For an Immediate too, the carried operand is the byte at the effective address. -/
theorem readOperand_of_carried {o : Operand} {s : State} (h : CarriesBytesAtPc o s) :
    readOperand o s = (resolve o s).bind (memRead s) := by
  cases o with
  | immediate b =>
    obtain ⟨hb, -⟩ := List.cons_prefix_cons.1 h
    exact operandByte_eq_memRead hb
  | _ => exact readOperand_eq_bind (by rintro ⟨⟩) s

/-- What decode carries into the handler are the bytes after the opcode. -/
theorem carriesBytesAtPc_of_fetch {s t : State} {i : Instr} {n : Nat} (h : fetch s = .decoded i n t) :
    CarriesBytesAtPc i.operand t := by
  rcases fetch_cases s with ⟨-, h'⟩ | ⟨op, -, -, -, h'⟩ | ⟨row, -, hmem, -, -, h'⟩ <;> cases h.symm.trans h'
  obtain ⟨-, -, -, -, -, hbytes⟩ :=
    opTable_describes hmem (s.mem.peek (s.pc + 1).toNat) (s.mem.peek (s.pc + 2).toNat)
  have hpc : s.pc + 1 + 1#16 = s.pc + 2 := BitVec.add_assoc ..
  rw [CarriesBytesAtPc, hbytes, State.setPc_mem, State.setPc_pc, hpc]
  cases row.build with
  | plain i => exact List.nil_prefix
  | byte f => exact List.prefix_append [_] [_]
  | word f =>
    simp only [Build.operandBytes, lowByte_wordOf, highByte_wordOf]
    exact List.prefix_rfl

/-! ## The statements -/

/-- Settles O22: each address as the resolver computes it, read as a number. -/
theorem effectiveAddresses : Obligations.EffectiveAddresses := by
  intro s z w
  refine ⟨rfl, fun hpc => ?byte, fun hpc hpc' => ?word⟩
  case byte =>
    have hbyte : operandByte z s = .ok z := operandByte_of_ne hpc z
    refine ⟨?zeroPage, ?zeroPageX, ?zeroPageY, fun lo hi hlo hhi => ?indirectX, fun lo hi hlo hhi => ?indirectY⟩
    case zeroPage => rw [resolve, hbyte, ← zext16_eq]; rfl
    case zeroPageX => rw [resolve, hbyte, ← zext16_add]; rfl
    case zeroPageY => rw [resolve, hbyte, ← zext16_add]; rfl
    case indirectX =>
      have hslot : BitVec.ofNat 16 ((z.toNat + s.x.toNat + 1) % 256) = zext16 (z + s.x + 1) := by
        rw [zext16_add, BitVec.toNat_add, ← Nat.mod_add_mod]; rfl
      rw [← zext16_add] at hlo
      rw [hslot] at hhi
      rw [resolve, hbyte]
      exact congrArg Except.ok (zpRead16_of_memRead hlo hhi)
    case indirectY =>
      have hslot : BitVec.ofNat 16 ((z.toNat + 1) % 256) = zext16 (z + 1) := (zext16_add z 1).symm
      rw [← zext16_eq] at hlo
      rw [hslot] at hhi
      rw [resolve, hbyte, ← wordOf_toNat, ← add_zext16, ← zpRead16_of_memRead hlo hhi]
      rfl
  case word =>
    have hword : operandWord w s = .ok w := operandWord_of_ne hpc (by bv_omega) w
    refine ⟨hword, ?absoluteX, ?absoluteY⟩
    case absoluteX => rw [resolve, hword, ← add_zext16]; rfl
    case absoluteY => rw [resolve, hword, ← add_zext16]; rfl

/-- Settles O23: an operand is read just where its bytes and its effective address exist, and it raises nothing
but OutOfRangeAddress. -/
theorem operandReadsFaultOnlyAtMissingByte : Obligations.OperandReadsFaultOnlyAtMissingByte := by
  intro i s
  refine ⟨fun hmode => ?_, fun hmode => resolve_of_noMode hmode s⟩
  have ho : resolvable i.operand = true := by simpa [resolvable, Instr.form] using hmode
  refine ⟨⟨fun ⟨m, hm⟩ => not_operandFaults_of_readOperand hm, readOperand_of_not_operandFaults ho⟩,
    readOperand_of_operandFaults ho, resolve_of_missing ho,
    fun hpresent => resolve_of_present ho fun k hk htop => hpresent ⟨k, hk, htop⟩,
    fun ea hi hea => readOperand_of_resolve hi hea, fun b hb hpc => ?_⟩
  rw [hb]
  exact operandByte_of_ne hpc b

/-- Settles O24: the carried bytes are those at `pc1`, so both resolvers see the same operand. -/
theorem decodedOperandIsTheOneAtPc : Obligations.DecodedOperandIsTheOneAtPc := by
  intro s t i n h
  have hcarries := carriesBytesAtPc_of_fetch h
  have hresolve : resolve i.operand t = resolveAt i.form.mode t := resolve_eq_resolveAt hcarries
  refine ⟨hresolve, ?_⟩
  rw [readOperand_of_carried hcarries, hresolve]
  cases resolveAt i.form.mode t <;> rfl

end Sys2Proof.Machine
end

section
/-! SUPPORT. The stack and the transfers of control through it (spec/47_stack.md R210 to R216,
spec/48_control_flow.md R222 to R236): pops in a row, what a call leaves in memory, and the statements about
Push and Pop, PHA and PLA, JSR, RTS and RTI. -/

namespace Sys2Proof.Machine

/-! ## Pops in a row -/

theorem popped_popped (s : State) : popped (popped s) = { s with sp := s.sp + 2 } :=
  congrArg (fun v => { s with sp := v }) (BitVec.add_assoc s.sp 1 1)

theorem popped_popped_popped (s : State) : popped (popped (popped s)) = { s with sp := s.sp + 3 } := by
  rw [popped_popped]
  exact congrArg (fun v => { s with sp := v }) (BitVec.add_assoc s.sp 1 2)

/-- Two pops give `pc` its low byte first; nothing but S and `pc` changes. -/
theorem pullPc_eq (plus : Word) (s : State) : pullPc plus s
    = { s with sp := s.sp + 2, pc := wordOf (topByte (popped s)) (topByte s) + plus } :=
  congrArg (·.setPc (wordOf (topByte (popped s)) (topByte s) + plus)) (popped_popped s)

/-! ## The two pushes of a call -/

theorem pushReturn_eq (s : State) :
    pushReturn s = { s with sp := s.sp - 2, mem := (pushReturn s).mem } :=
  congrArg (fun v => { s with sp := v, mem := (pushReturn s).mem }) (show s.sp - 1 - 1 = s.sp - 2 by bv_omega)

/-- The two slots of a call are different, for every S, 0x00 included. -/
theorem stackAddress_ne_below (s : State) : stackAddress s ≠ stackAddress { s with sp := s.sp - 1 } := by
  have hbelow : (stackAddress { s with sp := s.sp - 1 }).toNat = 256 + (s.sp - 1).toNat := stackAddress_toNat _
  have hsp : (s.sp - 1).toNat ≠ s.sp.toNat := by bv_omega
  intro h
  rw [← h, stackAddress_toNat] at hbelow
  exact hsp (Nat.add_left_cancel hbelow).symm

/-- What a call leaves in memory: its return address in the two slots, the high byte in the upper one. -/
theorem memRead_pushReturn (s : State) (a : Word) : memRead (pushReturn s) a =
    if a = stackAddress { s with sp := s.sp - 1 } then .ok (lowByte (s.pc + 1))
    else if a = stackAddress s then .ok (highByte (s.pc + 1)) else memRead s a := by
  rw [pushReturn, memRead_push, memRead_push]
  rfl

theorem memRead16_pushReturn {s : State} {a : Word}
    (h : ∀ b ∈ [a, a + 1], b ≠ stackAddress s ∧ b ≠ stackAddress { s with sp := s.sp - 1 }) :
    memRead16 (pushReturn s) a = memRead16 s a := by
  have hkept : ∀ b ∈ [a, a + 1], memRead (pushReturn s) b = memRead s b := by
    intro b hb
    rw [memRead_pushReturn, if_neg (h b hb).2, if_neg (h b hb).1]
  rw [memRead16, memRead16, hkept a (by simp), hkept (a + 1) (by simp)]

/-- From `s` to `t` the two pushes of a call in `s` were made, and nothing else stored. -/
def ReturnPushed (s t : State) : Prop :=
  memRead t (stackAddress s) = .ok (highByte (s.pc + 1)) ∧
    memRead t (stackAddress { s with sp := s.sp - 1 }) = .ok (lowByte (s.pc + 1)) ∧
    ∀ a, a ≠ stackAddress s → a ≠ stackAddress { s with sp := s.sp - 1 } → memRead t a = memRead s a

theorem returnPushed_of_mem {s t : State} (h : t.mem = (pushReturn s).mem) : ReturnPushed s t := by
  refine ⟨?_, ?_, fun a habove hbelow => ?_⟩ <;> rw [memRead_congr h, memRead_pushReturn]
  · rw [if_neg (stackAddress_ne_below s), if_pos rfl]
  · rw [if_pos rfl]
  · rw [if_neg hbelow, if_neg habove]

/-- A word read raises just where a two-byte operand is missing at the same place. -/
theorem memRead16_eq_error_iff {s : State} {a : Word} :
    (∃ c, memRead16 s a = .error c) ↔ a = 0xFFFF#16 ∨ a + 1#16 = 0xFFFF#16 := by
  constructor
  · rintro ⟨c, h⟩
    by_contra hpresent
    obtain ⟨ha, ha'⟩ := not_or.1 hpresent
    cases (memRead16_eq ha ha').symm.trans h
  · rintro (rfl | h)
    · exact ⟨_, memRead16_top s⟩
    · obtain rfl : a = 0xFFFE#16 := by bv_omega
      exact ⟨_, memRead16_nearTop s⟩

theorem operandByteMissing_jsr_iff (w : Word) (s : State) :
    OperandByteMissing (.jsr w) s ↔ ∃ c, memRead16 (pushReturn s) s.pc = .error c :=
  (operandByteMissing_iff_of_two_bytes rfl s).trans memRead16_eq_error_iff.symm

theorem exec_jsr (w : Word) (s : State) : exec (.jsr w) s =
    withValue (memRead16 (pushReturn s) s.pc) (pushReturn s) fun t => .next ((pushReturn s).setPc t) := rfl

/-- With its operand bytes there JSR jumps to the word that memory holds there after the pushes. -/
theorem exec_jsr_of_present {s : State} {w : Word} (h : ¬ OperandByteMissing (.jsr w) s) : ∃ target,
    memRead16 (pushReturn s) s.pc = .ok target ∧ exec (.jsr w) s = .next ((pushReturn s).setPc target) := by
  rw [operandByteMissing_jsr_iff] at h
  cases hread : memRead16 (pushReturn s) s.pc with
  | ok target => exact ⟨target, rfl, by rw [exec_jsr, hread, withValue_ok]⟩
  | error c => exact absurd ⟨c, hread⟩ h

/-- Without one of them JSR raises after its pushes. -/
theorem exec_jsr_of_missing {s : State} {w : Word} (h : OperandByteMissing (.jsr w) s) :
    exec (.jsr w) s = .next (raise (.outOfRangeAddress 0xFFFF#16) (pushReturn s)) := by
  obtain ⟨c, hread⟩ := (operandByteMissing_jsr_iff w s).1 h
  rw [exec_jsr, hread, withValue_error, memRead16_error hread]

/-! ## The statements about one handler -/

/-- Settles O21: the laws of Push and Pop. -/
theorem pushAndPopUseTheStackPage : Obligations.PushAndPopUseTheStackPage :=
  fun s v => ⟨stackAddress_toNat s, byte_sub_one_toNat s.sp, byte_add_one_toNat s.sp, rfl, storedOnly_push v s, rfl,
    memRead_stackAddress_popped s, topByte_push v s, popped_push_sp v s⟩

/-- Settles O44: PHA is a push of A; PLA takes the byte its pop reads, with Z and N of it. -/
theorem phaAndPlaMoveAccumulator : Obligations.PhaAndPlaMoveAccumulator :=
  ⟨hasEncodings_of_table rfl, hasEncodings_of_table rfl, fun s =>
    ⟨⟨push s.a s, rfl, rfl, storedOnly_push s.a s⟩, topByte s, memRead_stackAddress_popped s,
      answersWithZN_of_setP (u := (popped s).setReg .a (topByte s)) rfl⟩⟩

/-- Settles O48: the pushes are made whether or not the read of the target after them raises. -/
theorem jsrPushesThenReadsTarget : Obligations.JsrPushesThenReadsTarget := by
  refine ⟨hasEncodings_of_table rfl, fun s w => ?_⟩
  by_cases h : OperandByteMissing (.jsr w) s
  · obtain ⟨habove, hbelow, hkept⟩ := returnPushed_of_mem (s := s) (t := raise _ (pushReturn s)) rfl
    exact ⟨_, exec_jsr_of_missing h, congrArg (raise _) (pushReturn_eq s), habove, hbelow, hkept,
      fun h' => absurd h h', fun _ => ⟨rfl, rfl⟩⟩
  · obtain ⟨target, hread, hexec⟩ := exec_jsr_of_present h
    obtain ⟨habove, hbelow, hkept⟩ := returnPushed_of_mem (s := s) (t := (pushReturn s).setPc target) rfl
    exact ⟨_, hexec, congrArg (·.setPc target) (pushReturn_eq s), habove, hbelow, hkept,
      fun _ => ⟨rfl, hread, fun hapart => (memRead16_pushReturn hapart).symm.trans hread⟩, fun h' => absurd h' h⟩

/-- Settles O49: the three bytes are what three pops in a row return. -/
theorem rtsAndRtiPullPc : Obligations.RtsAndRtiPullPc := by
  refine ⟨hasEncodings_of_table rfl, hasEncodings_of_table rfl, fun s => ?_⟩
  refine ⟨topByte s, topByte (popped s), topByte (popped (popped s)), memRead_stackAddress_popped s, ?_, ?_, ?_, ?_⟩
  · rw [← popped_popped]
    exact memRead_stackAddress_popped (popped s)
  · rw [← popped_popped_popped]
    exact memRead_stackAddress_popped (popped (popped s))
  · rw [BitVec.ofNat_add]
    exact congrArg Host.Outcome.next (pullPc_eq 1 s)
  · have hsp : s.sp + 1 + 2 = s.sp + 3 := BitVec.add_assoc ..
    refine congrArg Host.Outcome.next ((pullPc_eq 0 _).trans ?_)
    have hpc (w : Word) : w + 0 = w := BitVec.add_zero w
    rw [hpc, ← hsp]
    rfl

/-! ## Call and return -/

theorem stackAddress_congr {s t : State} (h : t.sp = s.sp) : stackAddress t = stackAddress s := by
  rw [stackAddress, h, stackAddress]

theorem encode_jsr (w : Word) : encode (.jsr w) = [0x20, lowByte w, highByte w] := rfl

/-- A step of JSR whose operand bytes are there: the handler's jump, and the advance after it. -/
theorem step_jsr {s : State} {w : Word} (hrun : s.run = .running) (hbytes : BytesAt s s.pc (encode (.jsr w))) :
    ∃ target, memRead16 (pushReturn (s.setPc (s.pc + 1))) (s.pc + 1) = .ok target ∧
      step s = .next (advanced (s.pc + 1) 3 ((pushReturn (s.setPc (s.pc + 1))).setPc target)) := by
  obtain ⟨target, hread, hexec⟩ := exec_jsr_of_present (not_operandByteMissing_of_bytesAt hbytes)
  exact ⟨target, hread, step_of_fetch hrun (fetch_of_encode hbytes) hexec⟩

/-- After a transfer the advance writes `pc` alone. -/
theorem advanced_setPc (pc1 : Word) (n : Nat) (t : State) (target : Word) :
    ∃ w, advanced pc1 n (t.setPc target) = t.setPc w := by
  rcases advanced_cases pc1 n (t.setPc target) with h | ⟨w, h⟩
  · exact ⟨target, h⟩
  · exact ⟨w, h⟩

/-- Whatever its target and the advance after it, the step of a JSR leaves S and the stack as a call does. -/
theorem step_jsr_pushes {s : State} {w : Word} (hrun : s.run = .running) (hbytes : BytesAt s s.pc (encode (.jsr w))) :
    ∃ u, step s = .next u ∧ u.run = .running ∧ u.sp = s.sp - 2 ∧ ReturnPushed (s.setPc (s.pc + 1)) u := by
  obtain ⟨target, -, hstep⟩ := step_jsr hrun hbytes
  obtain ⟨w, hadvanced⟩ := advanced_setPc (s.pc + 1) 3 (pushReturn (s.setPc (s.pc + 1))) target
  rw [hadvanced] at hstep
  exact ⟨_, hstep, hrun, congrArg State.sp (pushReturn_eq (s.setPc (s.pc + 1))), returnPushed_of_mem rfl⟩

/-- The advance of a one-byte instruction goes nowhere. -/
theorem advanced_length_one (pc1 : Word) (t : State) : advanced pc1 1 t = t := by
  unfold advanced
  split
  · rename_i h
    rw [show pc1 + BitVec.ofNat 16 (1 - 1) = t.pc from (BitVec.add_zero pc1).trans h.2.symm]
    rfl
  · rfl

theorem step_rts {v : State} (hrun : v.run = .running) (hop : memRead v v.pc = .ok 0x60) :
    step v = .next (pullPc 1 (v.setPc (v.pc + 1))) := by
  rw [step_of_fetch hrun (fetch_of_encode (i := .rts) (bytesAt_singleton hop)) rfl]
  exact congrArg Host.Outcome.next (advanced_length_one _ _)

theorem topByte_of_memRead {s : State} {b : Byte} (h : memRead s (stackAddress (popped s)) = .ok b) : topByte s = b :=
  Except.ok.inj ((memRead_stackAddress_popped s).symm.trans h)

/-- With S where the call left it and its two slots as it left them, two pops return the return address. -/
theorem topBytes_of_returnPushed {s t v : State} (hpushed : ReturnPushed s t) (hsp : v.sp = s.sp - 2)
    (hkept : ∀ k ∈ [1, 2], memRead v (stackAddress { v with sp := v.sp + k })
      = memRead t (stackAddress { v with sp := v.sp + k })) :
    topByte v = lowByte (s.pc + 1) ∧ topByte (popped v) = highByte (s.pc + 1) := by
  obtain ⟨habove, hbelow, -⟩ := hpushed
  have hlower : stackAddress { v with sp := v.sp + 1 } = stackAddress { s with sp := s.sp - 1 } :=
    stackAddress_congr (show v.sp + 1 = s.sp - 1 by rw [hsp]; bv_omega)
  have hupper : stackAddress { v with sp := v.sp + 2 } = stackAddress s :=
    stackAddress_congr (show v.sp + 2 = s.sp by rw [hsp]; bv_omega)
  constructor
  · refine topByte_of_memRead ((hkept 1 (by simp)).trans ?_)
    rw [hlower, hbelow]
  · refine topByte_of_memRead ?_
    rw [popped_popped]
    refine (hkept 2 (by simp)).trans ?_
    rw [hupper, habove]

/-- Settles O51: the two bytes that RTS pops are the return address that JSR pushed, and RTS adds 1. -/
theorem rtsReturnsAfterJsr : Obligations.RtsReturnsAfterJsr := by
  intro s lo hi hrun hbytes
  have hencode : encode (.jsr (wordOf hi lo)) = [0x20, lo, hi] := by
    rw [encode_jsr, lowByte_wordOf, highByte_wordOf]
  rw [← hencode] at hbytes
  obtain ⟨u, hstep, hurun, husp, hpushed⟩ := step_jsr_pushes hrun hbytes
  refine ⟨u, hstep, ⟨hurun, husp⟩, fun v hvrun hvsp hop hkept => ?_⟩
  have haddress (k : Byte) :
      stackAddress { v.setPc (v.pc + 1) with sp := v.sp + k } = stackAddress { u with sp := u.sp + k } :=
    stackAddress_congr (congrArg (· + k) hvsp)
  obtain ⟨hlow, hhigh⟩ := topBytes_of_returnPushed (v := v.setPc (v.pc + 1)) hpushed (hvsp.trans husp)
    fun k hk => (congrArg (memRead v) (haddress k)).trans
      ((hkept k hk).trans (congrArg (memRead u) (haddress k).symm))
  have hpc : s.pc + 3 = s.pc + 1 + 1 + 1 := by bv_omega
  have hsp : s.sp = v.sp + 2 := by rw [hvsp.trans husp]; bv_omega
  rw [step_rts hvrun hop, pullPc_eq, hlow, hhigh, wordOf_highByte_lowByte, hpc, hsp]
  rfl

end Sys2Proof.Machine
end

section
/-! SUPPORT. Branches (spec/48_control_flow.md R225 to R233) and transfers of control to `pc1`
(spec/41_execution_cycle.md R135): the statements about them. -/

namespace Sys2Proof.Machine

/-! ## Branches -/

/-- A word plus a sign-extended byte is their sum as integers, mod 65536. -/
theorem add_sext16_toNat (w : Word) (b : Byte) : ((w + sext16 b).toNat : Int) = (w.toNat + b.toInt) % 65536 := by
  rw [sext16, BitVec.signExtend, BitVec.toNat_add, BitVec.toNat_ofInt]
  omega

/-- The eight as one: a branch is taken if its flag has the value it names, and raises without its offset byte. -/
theorem branch_contract {i : Instr} {cond b : Bool} {off : Byte} {f : Flag} {s : State}
    (h : exec i s = branch cond off s) (hcond : cond = true ↔ s.flag f = b) :
    (s.pc ≠ 0xFFFF#16 → ∃ target : Word, (target.toNat : Int) = (s.pc.toNat + 1 + off.toInt) % 65536 ∧
        exec i s = .next (if s.flag f = b then { s with pc := target } else s)) ∧
      (s.pc = 0xFFFF#16 → TakesOutOfRange i s) := by
  rw [branch_eq] at h
  refine ⟨fun hpc => ⟨s.pc + 1 + sext16 off, ?target, ?exec⟩, fun hpc => ?raises⟩
  case target =>
    have hone : (1 : Word).toNat = 1 := rfl
    rw [add_sext16_toNat, BitVec.toNat_add, hone]
    omega
  case exec =>
    rw [h, if_neg hpc, apply_ite Host.Outcome.next]
    simp only [hcond]
    rfl
  case raises => rw [TakesOutOfRange, h, if_pos hpc]; rfl

/-- Settles O50, by the branches' contract. -/
theorem branchesAddSignedOffset : Obligations.BranchesAddSignedOffset := by
  refine ⟨hasEncodings_of_table rfl, hasEncodings_of_table rfl, hasEncodings_of_table rfl,
    hasEncodings_of_table rfl, hasEncodings_of_table rfl, hasEncodings_of_table rfl, hasEncodings_of_table rfl,
    hasEncodings_of_table rfl, fun s off e he => ?_⟩
  fin_cases he <;> exact branch_contract rfl (by simp)

/-! ## A transfer to `pc1` -/

/-- Taken or not, a branch with offset 0xFF leaves `pc` as it is. -/
theorem branch_to_self {s : State} (hpc : s.pc ≠ 0xFFFF#16) (cond : Bool) : branch cond 0xFF s = .next s := by
  have htarget : s.pc + 1 + sext16 0xFF = s.pc := (BitVec.add_assoc ..).trans (BitVec.add_zero _)
  rw [branch_eq, if_neg hpc, htarget]
  cases cond <;> rfl

theorem step_of_branch_to_pc1 {s : State} {i : Instr} {cond : Bool} (hrun : s.run = .running)
    (hbytes : BytesAt s s.pc (encode i)) (hlength : (encode i).length = 2)
    (hexec : exec i (s.setPc (s.pc + 1)) = branch cond 0xFF (s.setPc (s.pc + 1))) :
    step s = .next { s with pc := s.pc + 2 } := by
  have hpresent : s.pc + 1 ≠ 0xFFFF#16 := by
    simpa using ne_top_of_memRead (hbytes 1 (by omega))
  rw [step_of_transfer_to_pc1 hrun hbytes (by simpa using decodeOfEncodeIsIdentity i [])
    (hexec.trans (branch_to_self hpresent cond)), hlength]
  rfl

/-- A call to `pc1` whose pushes miss its own operand bytes finds `pc1` there and is advanced past them. -/
theorem step_of_jsr_to_pc1 {s : State} (hrun : s.run = .running) (hbytes : BytesAt s s.pc (encode (.jsr (s.pc + 1))))
    (hapart : ∀ a ∈ [s.pc + 1, s.pc + 2], a ≠ stackAddress s ∧ a ≠ stackAddress { s with sp := s.sp - 1 }) :
    step s = .next { pushReturn (s.setPc (s.pc + 1)) with pc := s.pc + 3 } := by
  obtain ⟨target, hread, hstep⟩ := step_jsr hrun hbytes
  have hnext : s.pc + 2 = s.pc + 1 + 1 := (BitVec.add_assoc s.pc 1 1).symm
  obtain ⟨-, hoperand⟩ := bytesAt_cons hbytes
  obtain ⟨hlo, hrest⟩ := bytesAt_cons hoperand
  obtain ⟨hhi, -⟩ := bytesAt_cons hrest
  have htarget : memRead16 (s.setPc (s.pc + 1)) (s.pc + 1) = .ok (s.pc + 1) :=
    (memRead16_of_memRead hlo hhi).trans (congrArg Except.ok (wordOf_highByte_lowByte _))
  rw [hnext] at hapart
  rw [memRead16_pushReturn (s := s.setPc (s.pc + 1)) hapart, htarget] at hread
  cases hread
  rw [hstep, advanced_from_pc0 s.pc (by decide), if_pos ⟨hrun, rfl⟩]
  rfl

/-- Settles O13: the handler leaves `pc` at `pc1`, so the advance's value test holds. -/
theorem transferToPc1IsAdvanced : Obligations.TransferToPc1IsAdvanced := by
  obtain ⟨-, -, hjmpAbs⟩ := jmpAbsoluteJumps
  obtain ⟨-, -, hjmpInd⟩ := jmpIndirectWrapsInPage
  intro s hrun
  refine ⟨fun op hop hbytes => ?branch, hjmpAbs s hrun, fun p => hjmpInd s p hrun, fun hbytes hapart => ?jsr⟩
  case branch =>
    fin_cases hop
    · exact step_of_branch_to_pc1 (i := .bcc 0xFF) hrun hbytes rfl rfl
    · exact step_of_branch_to_pc1 (i := .bcs 0xFF) hrun hbytes rfl rfl
    · exact step_of_branch_to_pc1 (i := .beq 0xFF) hrun hbytes rfl rfl
    · exact step_of_branch_to_pc1 (i := .bne 0xFF) hrun hbytes rfl rfl
    · exact step_of_branch_to_pc1 (i := .bpl 0xFF) hrun hbytes rfl rfl
    · exact step_of_branch_to_pc1 (i := .bmi 0xFF) hrun hbytes rfl rfl
    · exact step_of_branch_to_pc1 (i := .bvc 0xFF) hrun hbytes rfl rfl
    · exact step_of_branch_to_pc1 (i := .bvs 0xFF) hrun hbytes rfl rfl
  case jsr =>
    have hpushed : ReturnPushed (s.setPc (s.pc + 1)) { pushReturn (s.setPc (s.pc + 1)) with pc := s.pc + 3 } :=
      returnPushed_of_mem rfl
    have hnext : s.pc + 2 = s.pc + 1 + 1 := (BitVec.add_assoc s.pc 1 1).symm
    rw [hnext]
    exact ⟨_, step_of_jsr_to_pc1 hrun hbytes hapart,
      congrArg (·.setPc (s.pc + 3)) (pushReturn_eq (s.setPc (s.pc + 1))), hpushed⟩

end Sys2Proof.Machine
end

section
/-! SUPPORT. The carry chain as integers (spec/45_arith_compare.md R190, R191, R197): what the 9-bit sum and the
overflow test mean, that SBC subtracts, and that a comparison is SBC after SEC without the write. -/

namespace Sys2Proof.Machine

/-! ## The sum -/

/-- A byte's two's complement value. -/
theorem toInt_cases (b : Byte) :
    (b.toNat < 128 ∧ b.toInt = b.toNat) ∨ (128 ≤ b.toNat ∧ b.toInt = b.toNat - 256) := by
  rw [BitVec.toInt_eq_toNat_cond]
  split_ifs <;> omega

/-- The result with its carry is the unbounded sum. -/
theorem addSum_eq (a m : Byte) (c : Bool) :
    a.toNat + m.toNat + c.toNat = 256 * (addCarry a m c).toNat + (addResult a m c).toNat := by
  have hsum : addSum a m c = a.toNat + m.toNat + c.toNat := rfl
  have hc := c.toNat_le
  rw [addResult, BitVec.toNat_ofNat, addCarry, hsum]
  by_cases h : a.toNat + m.toNat + c.toNat > 0xFF
  · rw [decide_eq_true h, Bool.toNat_true]; omega
  · rw [decide_eq_false h, Bool.toNat_false]; omega

theorem and_0x80_ne_zero (b : Byte) : (b &&& 0x80 != 0) = b.getLsbD 7 := by revert b; decide

/-- The bit test is signed overflow: the result's sign is neither operand's just if the sum of the two's
complement values is out of range. -/
theorem addOverflow_iff (a m : Byte) (c : Bool) :
    addOverflow a m c = true ↔ a.toInt + m.toInt + c.toNat < -128 ∨ 127 < a.toInt + m.toInt + c.toNat := by
  have hsum := addSum_eq a m c
  have hcarry := (addCarry a m c).toNat_le
  have hc := c.toNat_le
  have hbits : addOverflow a m c = true ↔ ¬ (128 ≤ m.toNat ↔ 128 ≤ (addResult a m c).toNat) ∧
      ¬ (128 ≤ (addResult a m c).toNat ↔ 128 ≤ a.toNat) := by
    rw [addOverflow, and_0x80_ne_zero, BitVec.getLsbD_and, BitVec.getLsbD_xor, BitVec.getLsbD_xor]
    simp only [getLsbD_seven, Bool.and_eq_true, bne_iff_ne, ne_eq, decide_eq_decide]
  rw [hbits]
  rcases toInt_cases a with ⟨_, ha⟩ | ⟨_, ha⟩ <;> rcases toInt_cases m with ⟨_, hm⟩ | ⟨_, hm⟩ <;>
    rw [ha, hm] <;> omega

/-- A byte with bit 7 is not 0. -/
theorem not_zero_and_negative {v : Byte} {t : State} (h : ZNOf v t) : ¬ (t.flag .z = true ∧ t.flag .n = true) := by
  obtain ⟨hz, hn⟩ := h
  rintro ⟨hz', hn'⟩
  obtain rfl : v = 0 := beq_iff_eq.1 (hz.symm.trans hz')
  cases hn.symm.trans hn'

/-- What an addition to A means: with its carry the result is the sum, and V is the signed overflow. -/
theorem addTo_exact (m : Byte) (s : State) :
    s.a.toNat + m.toNat + (s.flag .c).toNat = 256 * ((addTo m s).flag .c).toNat + (addTo m s).a.toNat ∧
      ((addTo m s).flag .v = true ↔ s.a.toInt + m.toInt + (s.flag .c).toNat < -128
        ∨ 127 < s.a.toInt + m.toInt + (s.flag .c).toNat) ∧
      ¬ ((addTo m s).flag .z = true ∧ (addTo m s).flag .n = true) := by
  obtain ⟨-, -, -, hzn, -⟩ := addsWithCarry_addTo m s
  rw [flag_addTo m s .c, flag_addTo m s .v]
  exact ⟨addSum_eq s.a m (s.flag .c), addOverflow_iff s.a m (s.flag .c), not_zero_and_negative hzn⟩

/-! ## The difference -/

theorem subOperand_toNat (m : Byte) : (subOperand m).toNat = 255 - m.toNat := by
  rw [subOperand_eq, BitVec.toNat_not]

theorem subOperand_toInt (m : Byte) : (subOperand m).toInt = -1 - m.toInt := by
  have hm := subOperand_toNat m
  rcases toInt_cases m with ⟨_, h⟩ | ⟨_, h⟩ <;>
    rcases toInt_cases (subOperand m) with ⟨_, h'⟩ | ⟨_, h'⟩ <;> omega

/-- With Carry set, the sum with the transformed operand is the difference. -/
theorem addResult_subOperand (a m : Byte) : addResult a (subOperand m) true = a - m := by
  apply BitVec.eq_of_toNat_eq
  have hsum : addSum a (subOperand m) true = a.toNat + (255 - m.toNat) + 1 := by
    rw [addSum, subOperand_toNat, Bool.toNat_true]
  rw [addResult, BitVec.toNat_ofNat, hsum, BitVec.toNat_sub]
  omega

/-- Its carry out says that there was no borrow. -/
theorem addCarry_subOperand (a m : Byte) : addCarry a (subOperand m) true = decide (m.toNat ≤ a.toNat) := by
  have hsum : addSum a (subOperand m) true = a.toNat + (255 - m.toNat) + 1 := by
    rw [addSum, subOperand_toNat, Bool.toNat_true]
  rw [addCarry, hsum, decide_eq_decide]
  omega

/-! ## The handlers -/

section

variable {i : Instr} {s : State} {m : Byte}

theorem exec_adc (hi : i.mnemonic = .adc) (hm : readOperand i.operand s = .ok m) : exec i s = .next (addTo m s) := by
  obtain ⟨hread, -⟩ := withOperand_contract (k := fun s m => .next (addTo m s)) rfl rfl i s hi
  exact hread m hm

theorem exec_sbc (hi : i.mnemonic = .sbc) (hm : readOperand i.operand s = .ok m) :
    exec i s = .next (addTo (subOperand m) s) := by
  obtain ⟨hread, -⟩ := withOperand_contract (k := fun s m => .next (addTo (subOperand m) s)) rfl rfl i s hi
  exact hread m hm

theorem exec_compare {r : Reg} {mn : Mnemonic} (hmn : handlerOf mn = compare r) (hi : i.mnemonic = mn)
    (hm : readOperand i.operand s = .ok m) : exec i s = .next (s.setP (compareStatus s.p (s.reg r) m)) := by
  have hexec : exec i s = compare r i.operand s := by rw [exec_of_mnemonic hi, hmn]
  rw [hexec, compare, hm, withValue_ok]

/-- A comparison with a register that holds what A holds. -/
theorem exec_compare_of_eq_a
    (hi : i.mnemonic = .cmp ∨ (i.mnemonic = .cpx ∧ s.x = s.a) ∨ (i.mnemonic = .cpy ∧ s.y = s.a))
    (hm : readOperand i.operand s = .ok m) : exec i s = .next (s.setP (compareStatus s.p s.a m)) := by
  rcases hi with hi | ⟨hi, hr⟩ | ⟨hi, hr⟩
  · exact exec_compare (r := .a) rfl hi hm
  · rw [exec_compare (r := .x) rfl hi hm, State.reg_x, hr]
  · rw [exec_compare (r := .y) rfl hi hm, State.reg_y, hr]

end

/-- The comparison's C, Z and N are those that SBC writes where Carry is set. -/
theorem compareStatus_eq_sub (s : State) (m : Byte) {f : Flag} (hf : f = .c ∨ f = .z ∨ f = .n) :
    getFlag (compareStatus s.p s.a m) f = (addTo (subOperand m) (s.setP (setFlag s.p .c true))).flag f := by
  rw [flag_addTo, State.flag_setP, getFlag_setFlag_same, State.setP_a, addResult_subOperand, addCarry_subOperand,
    getFlag_compareStatus]
  rcases hf with rfl | rfl | rfl <;> rfl

/-- Settles O38: ADC and SBC are the exact addition of the operand or of its complement, and what a comparison
writes is what SBC writes after SEC. -/
theorem carryChainArithmetic : Obligations.CarryChainArithmetic := by
  refine ⟨fun i s m hi hm => ?adc, fun i s m hi hm => ?sbc, fun i j s m hj hi hmi hmj => ?compare⟩
  case adc => exact ⟨_, exec_adc hi hm, addTo_exact m s⟩
  case sbc =>
    obtain ⟨hsum, hoverflow, hzn⟩ := addTo_exact (subOperand m) s
    rw [subOperand_toNat] at hsum
    rw [subOperand_toInt] at hoverflow
    refine ⟨_, exec_sbc hi hm, ?difference, ?overflow, hzn⟩
    case difference => omega
    case overflow =>
      rw [hoverflow]
      omega
  case compare =>
    have hread : readOperand j.operand (s.setP (setFlag s.p .c true)) = .ok m := (readOperand_setP ..).trans hmj
    exact ⟨_, _, _, exec_compare_of_eq_a hi hmi, rfl, exec_sbc hj hread, rfl, getFlag_compareStatus s.p s.a m .v,
      compareStatus_eq_sub s m (.inl rfl), compareStatus_eq_sub s m (.inr (.inl rfl)),
      compareStatus_eq_sub s m (.inr (.inr rfl))⟩

end Sys2Proof.Machine
end
